-- ==== Sys2Proof/Word.lean ====
section
/-! DEFINITION. The word types of the block: register bytes, 16-bit years and 24-bit command words (R6, R7, R13).
Every value of the block is unsigned. -/

namespace Sys2Proof

/-- An 8-bit register byte, field value or register address (R6 `REG_DATA_W`, `REG_ADDR_W`, `VALUE_W`). -/
abbrev Byte := BitVec 8

/-- A full year or a `baseline`: 16 bits, unsigned (R6 `YEAR_W`). -/
abbrev Year := BitVec 16

/-- A command word `cmd[23:0]` (R6 `CMD_W`, R100). -/
abbrev Command := BitVec 24

end Sys2Proof
end

