-- ==== Sys2Proof/Machine/RegisterMap.lean ====
section
/-! DEFINITION. The peripheral's 13 registers and the map of their addresses (R26, R60, R61). -/

namespace Sys2Proof

/-- The Register enumeration (R26): seven time and calendar registers, then the opaque ones. -/
inductive Register where
  | seconds
  | minutes
  | centHours
  | day
  | date
  | month
  | year
  | config1
  | trickle
  | config2
  | sfKey1
  | sfKey2
  | sfr
deriving DecidableEq, Repr

/-- Where State keeps a register's byte: under its number in the table of R61, whatever address a block's map gives the
register (log entry 11). -/
def Register.key : Register → Nat
  | .seconds => 0x00
  | .minutes => 0x01
  | .centHours => 0x02
  | .day => 0x03
  | .date => 0x04
  | .month => 0x05
  | .year => 0x06
  | .config1 => 0x07
  | .trickle => 0x08
  | .config2 => 0x09
  | .sfKey1 => 0x20
  | .sfKey2 => 0x21
  | .sfr => 0x22

/-- The 13 members, in the order of R26. -/
def Register.all : List Register :=
  [.seconds, .minutes, .centHours, .day, .date, .month, .year, .config1, .trickle, .config2, .sfKey1, .sfKey2, .sfr]

/-- An address map: the parameters `ADDR_<name>`, which R6 leaves OPEN and R61 takes as a configuration table. -/
structure AddressMap where
  seconds : Byte
  minutes : Byte
  centHours : Byte
  day : Byte
  date : Byte
  month : Byte
  year : Byte
  config1 : Byte
  trickle : Byte
  config2 : Byte
  sfKey1 : Byte
  sfKey2 : Byte
  sfr : Byte
deriving DecidableEq, Repr

/-- `addr(r)`: the address a map gives a register. -/
def AddressMap.addr (m : AddressMap) : Register → Byte
  | .seconds => m.seconds
  | .minutes => m.minutes
  | .centHours => m.centHours
  | .day => m.day
  | .date => m.date
  | .month => m.month
  | .year => m.year
  | .config1 => m.config1
  | .trickle => m.trickle
  | .config2 => m.config2
  | .sfKey1 => m.sfKey1
  | .sfKey2 => m.sfKey2
  | .sfr => m.sfr

/-- The one property the rules rely on: the 13 addresses are distinct (R61). -/
abbrev AddressMap.wf (m : AddressMap) : Prop := (Register.all.map m.addr).Nodup

/-- Enumeration membership (R112): the register an 8-bit address operand names, if it names one. -/
def AddressMap.ofAddr (m : AddressMap) (a : Byte) : Option Register :=
  Register.all.find? (fun r => m.addr r == a)

/-- The table of R61 (log entry 11). -/
def AddressMap.standard : AddressMap where
  seconds := 0x00
  minutes := 0x01
  centHours := 0x02
  day := 0x03
  date := 0x04
  month := 0x05
  year := 0x06
  config1 := 0x07
  trickle := 0x08
  config2 := 0x09
  sfKey1 := 0x20
  sfKey2 := 0x21
  sfr := 0x22

end Sys2Proof
end

