-- ==== Sys2Proof/Syntax.lean ====
section
/-! DEFINITION. The 36 operations of `spec/opcode_table.json`, one constructor per row, with the operands their
format names (R101, R102, R115). -/

namespace Sys2Proof

/-- A command of the block. Operands stand in the order of R115. `RDB` and `WRB` carry the 8-bit address operand as it
stands in the word; membership in the register map is a check of `WellFormed`, of the decoder and of the meaning
(R112, R113 (b), R222; log entry 10). -/
inductive Instr where
  | decSec (byte : Byte)
  | decMin (byte : Byte)
  | decHour (byte : Byte)
  | decDay (byte : Byte)
  | decDate (byte : Byte)
  | decMon (byte : Byte)
  | decYr (byte : Byte)
  | encSec (value currentByte : Byte)
  | encMin (value currentByte : Byte)
  | encHour (value currentByte : Byte)
  | encDay (value currentByte : Byte)
  | encDate (value currentByte : Byte)
  | encMon (value currentByte : Byte)
  | encYr (value currentByte : Byte)
  | decYear (rawYearByte : Byte) (centOverflowBit : Bool)
  | prepYear (fullYear : Year)
  | getSec
  | getMin
  | getHour
  | getDay
  | getDate
  | getMon
  | getYr
  | getYear
  | setSec (value : Byte)
  | setMin (value : Byte)
  | setHour (value : Byte)
  | setDay (value : Byte)
  | setDate (value : Byte)
  | setMon (value : Byte)
  | setYr (value : Byte)
  | setYear (fullYear : Year)
  | start
  | stop
  | rdb (register : Byte)
  | wrb (register byte : Byte)
deriving DecidableEq, Repr

end Sys2Proof
end

