-- ==== Sys2Proof/WellFormed.lean ====
section
/-! DEFINITION. When an instruction is one the block can spell: the address operand of `RDB` and `WRB` must be one of
the 13 register addresses (R112, R113 (b)); every other operand is unsigned bits used as they stand (R111). -/

namespace Sys2Proof

/-- Well-formedness of a command of a block with the address map `m`, one arm per constructor. -/
def Instr.wf (m : AddressMap) : Instr → Bool
  | .decSec _ => true
  | .decMin _ => true
  | .decHour _ => true
  | .decDay _ => true
  | .decDate _ => true
  | .decMon _ => true
  | .decYr _ => true
  | .encSec _ _ => true
  | .encMin _ _ => true
  | .encHour _ _ => true
  | .encDay _ _ => true
  | .encDate _ _ => true
  | .encMon _ _ => true
  | .encYr _ _ => true
  | .decYear _ _ => true
  | .prepYear _ => true
  | .getSec => true
  | .getMin => true
  | .getHour => true
  | .getDay => true
  | .getDate => true
  | .getMon => true
  | .getYr => true
  | .getYear => true
  | .setSec _ => true
  | .setMin _ => true
  | .setHour _ => true
  | .setDay _ => true
  | .setDate _ => true
  | .setMon _ => true
  | .setYr _ => true
  | .setYear _ => true
  | .start => true
  | .stop => true
  | .rdb a => (m.ofAddr a).isSome
  | .wrb a _ => (m.ofAddr a).isSome

end Sys2Proof
end

