-- ==== Sys2Proof/Decode.lean ====
section
/-! DEFINITION. The command word: its fields, the decoder, total on every 24-bit word and rejecting by name, and the
encoder (R100 to R102, R111 to R114). A command word is one 24-bit value on the command port, not a sequence of bytes
(R62, log entry 16). -/

namespace Sys2Proof

/-- Why a command word spells no operation (R113). -/
inductive Reject where
  /-- R113 (a): `op` is an empty cell of the opcode map. -/
  | unassignedOp (op : Byte)
  /-- R113 (b): `RDB` or `WRB` with an address that is no register address. -/
  | notARegister (address : Byte)
deriving DecidableEq, Repr

/-- `op = cmd[23:16]`, the class and the selector (R100). -/
def opField (w : Command) : Byte := w.extractLsb' 16 8

/-- `arg[15:8]` (R102). -/
def argHigh (w : Command) : Byte := w.extractLsb' 8 8

/-- `arg[7:0]` (R102). -/
def argLow (w : Command) : Byte := w.extractLsb' 0 8

/-- `arg[15:0]` (R102, format `Y`). -/
def argYear (w : Command) : Year := w.extractLsb' 0 16

/-- `arg[8]` (R102, format `DY`). -/
def argBit8 (w : Command) : Bool := w.getLsbD 8

/-- An `RDB` or `WRB` spelled with address `a`: the instruction, if `a` is a register address (R113 (b)). -/
def withRegister (m : AddressMap) (a : Byte) (i : Instr) : Except Reject Instr :=
  if (m.ofAddr a).isSome then .ok i else .error (.notARegister a)

/-- The decoder of a block with the address map `m` (R101, R102, R113, R114): it looks at `op` only, ignores reserved bits
of `arg`, and answers every word. -/
def decode (m : AddressMap) (w : Command) : Except Reject Instr :=
  match (opField w).toNat with
  | 0x00 => .ok (.decSec (argLow w))
  | 0x01 => .ok (.decMin (argLow w))
  | 0x02 => .ok (.decHour (argLow w))
  | 0x03 => .ok (.decDay (argLow w))
  | 0x04 => .ok (.decDate (argLow w))
  | 0x05 => .ok (.decMon (argLow w))
  | 0x06 => .ok (.decYr (argLow w))
  | 0x10 => .ok (.encSec (argLow w) (argHigh w))
  | 0x11 => .ok (.encMin (argLow w) (argHigh w))
  | 0x12 => .ok (.encHour (argLow w) (argHigh w))
  | 0x13 => .ok (.encDay (argLow w) (argHigh w))
  | 0x14 => .ok (.encDate (argLow w) (argHigh w))
  | 0x15 => .ok (.encMon (argLow w) (argHigh w))
  | 0x16 => .ok (.encYr (argLow w) (argHigh w))
  | 0x20 => .ok (.decYear (argLow w) (argBit8 w))
  | 0x21 => .ok (.prepYear (argYear w))
  | 0x30 => .ok .getSec
  | 0x31 => .ok .getMin
  | 0x32 => .ok .getHour
  | 0x33 => .ok .getDay
  | 0x34 => .ok .getDate
  | 0x35 => .ok .getMon
  | 0x36 => .ok .getYr
  | 0x37 => .ok .getYear
  | 0x40 => .ok (.setSec (argLow w))
  | 0x41 => .ok (.setMin (argLow w))
  | 0x42 => .ok (.setHour (argLow w))
  | 0x43 => .ok (.setDay (argLow w))
  | 0x44 => .ok (.setDate (argLow w))
  | 0x45 => .ok (.setMon (argLow w))
  | 0x46 => .ok (.setYr (argLow w))
  | 0x47 => .ok (.setYear (argYear w))
  | 0x50 => .ok .start
  | 0x51 => .ok .stop
  | 0x60 => withRegister m (argLow w) (.rdb (argLow w))
  | 0x61 => withRegister m (argLow w) (.wrb (argLow w) (argHigh w))
  | _ => .error (.unassignedOp (opField w))

/-- `{op, arg[15:8], arg[7:0]}` (R100, R102). -/
def word (op high low : Byte) : Command :=
  BitVec.ofNat 24 (op.toNat * 0x10000 + high.toNat * 0x100 + low.toNat)

/-- `{op, arg[15:0]}` (R100, R102 format `Y`). -/
def wordYear (op : Byte) (year : Year) : Command :=
  BitVec.ofNat 24 (op.toNat * 0x10000 + year.toNat)

/-- The encoder: reserved bits are written 0 (R114). -/
def encode : Instr → Command
  | .decSec b => word 0x00 0 b
  | .decMin b => word 0x01 0 b
  | .decHour b => word 0x02 0 b
  | .decDay b => word 0x03 0 b
  | .decDate b => word 0x04 0 b
  | .decMon b => word 0x05 0 b
  | .decYr b => word 0x06 0 b
  | .encSec v c => word 0x10 c v
  | .encMin v c => word 0x11 c v
  | .encHour v c => word 0x12 c v
  | .encDay v c => word 0x13 c v
  | .encDate v c => word 0x14 c v
  | .encMon v c => word 0x15 c v
  | .encYr v c => word 0x16 c v
  | .decYear b c => word 0x20 (if c then 1 else 0) b
  | .prepYear y => wordYear 0x21 y
  | .getSec => word 0x30 0 0
  | .getMin => word 0x31 0 0
  | .getHour => word 0x32 0 0
  | .getDay => word 0x33 0 0
  | .getDate => word 0x34 0 0
  | .getMon => word 0x35 0 0
  | .getYr => word 0x36 0 0
  | .getYear => word 0x37 0 0
  | .setSec v => word 0x40 0 v
  | .setMin v => word 0x41 0 v
  | .setHour v => word 0x42 0 v
  | .setDay v => word 0x43 0 v
  | .setDate v => word 0x44 0 v
  | .setMon v => word 0x45 0 v
  | .setYr v => word 0x46 0 v
  | .setYear y => wordYear 0x47 y
  | .start => word 0x50 0 0
  | .stop => word 0x51 0 0
  | .rdb a => word 0x60 0 a
  | .wrb a b => word 0x61 b a

/-- The command word whose first `nbits` bits are those of `w` and whose other bits are 0. -/
def tableWord (nbits w : Nat) : Command := BitVec.ofNat 24 (w % 2 ^ nbits)

/-- The instruction the decoder reads from a word numbered as `spec/opcode_table.json` numbers it: bit 0 of the table is
bit 0 of the command word (R100). The map is that of R61, as at reset. -/
def decodeTableWord (nbits w : Nat) : Option Instr :=
  match decode AddressMap.standard (tableWord nbits w) with
  | .ok i => some i
  | .error _ => none

end Sys2Proof
end

