-- ==== Sys2Proof/Machine/Flags.lean ====
section
/-! DEFINITION. The control bits. The block has no status flags (R24); what plays their part are the two named control
bits that share a register byte with a time field, HALT and CENT, read and changed by plain masks (R92). -/

namespace Sys2Proof.Machine

/-- `halt(b) = b[7]` of a Seconds byte (R92). -/
def haltBit (b : Byte) : Bool := b.getLsbD 7

/-- `cent(b) = b[7]` of a CentHours byte (R92). -/
def centBit (b : Byte) : Bool := b.getLsbD 7

/-- `b & 0x7F`: HALT or CENT cleared (R92, R170, R208). -/
def clearBit7 (b : Byte) : Byte := b &&& 0x7F

/-- `b | 0x80`: HALT set (R92, R171). -/
def setBit7 (b : Byte) : Byte := b ||| 0x80

end Sys2Proof.Machine
end

