-- ==== Sys2Proof/Config.lean ====
section
/-! DEFINITION. What an implementation fixes: the default construction arguments of a block (R6), the byte an
unlisted register reads as, and the free values (U4, U5, U6, U11 of `93_implementation_defined.md`). -/

namespace Sys2Proof.Config

/-- `BASELINE_RESET`, 2000 by default (R6, R51, R260). It is only the DEFAULT of a construction argument: the
argument itself is a field of `Machine.Params`, so statements hold for every value of it (log entry 12). -/
def baselineReset : Year := 2000

/-- `DEVICE_ADDR`, the default 0xD0 of the row R6 marks OPEN (R74, D7); like `baselineReset`, the argument itself is a
field of `Machine.Params` (log entry 12). -/
def deviceAddr : Byte := 0xD0

/-- What a register that nothing has written yet reads as. DESIGN CHOICE (log entry 1, unsafe): the spec gives no
content of the peripheral's registers at the start of a run (R51, N9, U13). -/
def unlistedByte : Byte := 0

/-- The free values of the model: the `n`-th byte drawn. It has no body, so nothing in Lean can evaluate it.
It stands for: a register after a failed transaction (R75, U4), the held-bus state after a failed transport call
(R47, U6), the latch between operations (R22, U11), the CENT bit at a second carry (R49, U5). Log entry 2. -/
opaque freeByte : Nat → Byte

end Sys2Proof.Config
end

