-- ==== Sys2Proof/Machine/DayCodes.lean ====
section
/-! DEFINITION. The day-of-week enumeration and the table of its codes, the parameter `DAY_CODE` (R6, R99, D14). -/

namespace Sys2Proof.Machine

/-- The DayOfWeek enumeration: seven named days and the sentinel (R19, R99). -/
inductive DayOfWeek where
  | unset
  | sunday
  | monday
  | tuesday
  | wednesday
  | thursday
  | friday
  | saturday
deriving DecidableEq, Repr

/-- The eight members, in the order of R99. -/
def DayOfWeek.all : List DayOfWeek :=
  [.unset, .sunday, .monday, .tuesday, .wednesday, .thursday, .friday, .saturday]

/-- A table of day codes: the parameter `DAY_CODE`, which R6 leaves OPEN (log entry 19). A code is a value of the 3-bit field. -/
structure DayCodes where
  unset : BitVec 3
  sunday : BitVec 3
  monday : BitVec 3
  tuesday : BitVec 3
  wednesday : BitVec 3
  thursday : BitVec 3
  friday : BitVec 3
  saturday : BitVec 3
deriving DecidableEq, Repr

/-- The code a table gives a day, as the byte an operand or a register holds (R99). -/
def DayCodes.code (c : DayCodes) : DayOfWeek → Byte
  | .unset => c.unset.setWidth 8
  | .sunday => c.sunday.setWidth 8
  | .monday => c.monday.setWidth 8
  | .tuesday => c.tuesday.setWidth 8
  | .wednesday => c.wednesday.setWidth 8
  | .thursday => c.thursday.setWidth 8
  | .friday => c.friday.setWidth 8
  | .saturday => c.saturday.setWidth 8

/-- R99: an injection of the seven days and Unset into 0 to 7. -/
abbrev DayCodes.wf (c : DayCodes) : Prop := (DayOfWeek.all.map c.code).Nodup

/-- The day a code names. -/
def DayCodes.dayOf (c : DayCodes) (code : Byte) : Option DayOfWeek :=
  DayOfWeek.all.find? (fun d => c.code d == code)

/-- The table of R99: Unset 0, Sunday 1 to Saturday 7. -/
def DayCodes.standard : DayCodes where
  unset := 0
  sunday := 1
  monday := 2
  tuesday := 3
  wednesday := 4
  thursday := 5
  friday := 6
  saturday := 7

end Sys2Proof.Machine
end

