-- ==== Sys2Proof/Machine/State.lean ====
section
/-! DEFINITION. The state of the machine, plain data: the block's register `baseline` (R20), the peripheral's register
space `REG` (R26), the transient latch and the transport's held-bus state (R22, R47), the construction arguments (R6),
and the model's own fields: what the host and the environment will do, what the ports have shown, and the counter of free
values. -/

namespace Sys2Proof.Machine

/-- The peripheral's register space `REG` (R60): a list of register key and byte pairs in one canonical form, said by
`Memory.wf` in `Machine/Memory.lean`. -/
abbrev Memory := List Host.Cell

/-- The construction arguments of a block (R6, rows marked OPEN; R260). No operation changes them. -/
structure Params where
  /-- `BASELINE_RESET`. -/
  baselineReset : Year
  /-- `DEVICE_ADDR`, passed to every transport call and read by nothing else (R74). -/
  deviceAddr : Byte
  /-- `ADDR_<name>`, read by the decoder, by `RDB` and `WRB`, and by every transport call (R61, R72, R73). -/
  addresses : AddressMap
  /-- `DAY_CODE`: what the day codes carried by `GET.DAY` and `SET.DAY` name; no operation reads it (R99). -/
  dayCodes : DayCodes
deriving DecidableEq, Repr

/-- One step the peripheral takes on its own (R50, `ENV_TICK`): the values it puts into the digit fields, and whether the
short year carried into a new century, which moves CENT (R49). -/
structure Tick where
  /-- SEC10, SEC1. -/
  sec : BitVec 7
  /-- MIN10, MIN1. -/
  min : BitVec 7
  /-- HOUR10, HOUR1. -/
  hour : BitVec 6
  /-- DAY. -/
  day : BitVec 3
  /-- DATE10, DATE1. -/
  date : BitVec 6
  /-- MON10, MON1. -/
  month : BitVec 5
  /-- YR10, YR1. -/
  year : BitVec 8
  /-- The century carry of R49. -/
  carry : Bool
deriving DecidableEq, Repr

/-- One move of the environment (R12 (c)): the peripheral ticks, or the transport answers a call (R75: whether a
transaction fails is the environment's choice). -/
inductive EnvMove where
  | tick (t : Tick)
  | answer (ok : Bool)
deriving DecidableEq, Repr

/-- One move of the host (R17): issue one command word; reset the idle block (R260); or issue a command word and reset the
block while that command is in progress (R262). -/
inductive HostMove where
  | command (w : Command)
  | reset
  /-- The reset comes when `calls` transport calls of the command have been answered, `inFlight` says whether the next one
  has already been made (log entry 20). -/
  | cutShort (w : Command) (calls : Nat) (inFlight : Bool)
deriving DecidableEq, Repr

/-- The result bundle (R106). `res`, `aux` and `flag` stand only where `status` is `OK`: elsewhere they carry no
information (U3). -/
inductive Bundle where
  | ok (res : BitVec 16) (aux : Byte) (flag : Bool)
  | transportError
  | illegalCommand
deriving DecidableEq, Repr

/-- What appears on the block's ports (R107): a transport `write` call with the bytes sent and its answer, a transport
`read` call with the byte returned or `none` for a `BusError` (R71), a `write` or `read` call that a reset left without an
answer (R262), or a result bundle. -/
inductive PortEvent where
  | write (device : Byte) (bytes : List Byte) (holdBus ok : Bool)
  | read (device : Byte) (reply : Option Byte)
  | cutWrite (device : Byte) (bytes : List Byte) (holdBus : Bool)
  | cutRead (device : Byte)
  | result (b : Bundle)
deriving DecidableEq, Repr

/-- A step of this machine never faults: the spec has no synchronous exception that stops the block (R232), and the two
error outcomes leave it idle and ready for the next command (R236, R239). So no constructor. -/
inductive Fault where
deriving DecidableEq, Repr

/-- Why a step has no meaning. -/
inductive Refusal where
  /-- Raised by `exec`'s arm of an instruction that has no meaning yet (safe: the model stops). No arm raises it now. -/
  | notModelled (mnemonic : String)
deriving DecidableEq, Repr

/-- The state. -/
structure State where
  /-- The block's only architectural register (R20). -/
  baseline : Year
  /-- The peripheral's registers (R26). -/
  reg : Memory
  /-- The latch `t` of a `MemRead` (R22). -/
  latch : Byte
  /-- Whether the transport holds the bus open (R47). -/
  busHeld : Bool
  /-- The construction arguments (R6). -/
  params : Params
  /-- MODEL'S OWN: what the host will do next, oldest first (R17, R23; log entry 4). -/
  host : List HostMove
  /-- MODEL'S OWN: what the environment will do next, oldest first (R50, R75; log entry 3). -/
  env : List EnvMove
  /-- MODEL'S OWN: everything the ports have shown, oldest first (R107; log entry 5). -/
  port : List PortEvent
  /-- MODEL'S OWN: how many free values have been drawn (log entry 2). -/
  draws : Nat
deriving DecidableEq, Repr

/-- The machine right after reset (R51, R260): `baseline` is `BASELINE_RESET`, the block is idle. The spec gives the
peripheral's registers, the latch and the transport no value (log entries 1, 7, 8). -/
def State.reset : State where
  baseline := Config.baselineReset
  reg := []
  latch := 0
  busHeld := false
  params :=
    { baselineReset := Config.baselineReset
      deviceAddr := Config.deviceAddr
      addresses := AddressMap.standard
      dayCodes := DayCodes.standard }
  host := []
  env := []
  port := []
  draws := 0

end Sys2Proof.Machine
end

