-- ==== Sys2Proof/Machine/Memory.lean ====
section
/-! DEFINITION. Reading and writing one byte of the register space, and its canonical form (R60, R65). -/

namespace Sys2Proof.Machine

/-- The byte under key `a`, that of a register (`Register.key`): an unlisted one reads as `Config.unlistedByte` (log entry 1). -/
def Memory.read : Memory → Nat → Byte
  | [], _ => Config.unlistedByte
  | (b, v) :: m, a => if b = a then v else Memory.read m a

/-- The memory with no entry for address `a`. -/
def Memory.erase (m : Memory) (a : Nat) : Memory := m.filter (fun c => c.1 != a)

/-- The entry `(a, v)` put before the first entry of a higher address. -/
def Memory.insert : Memory → Nat → Byte → Memory
  | [], a, v => [(a, v)]
  | (b, w) :: m, a, v => if a < b then (a, v) :: (b, w) :: m else (b, w) :: Memory.insert m a v

/-- The byte `v` put under key `a`; writing what an unlisted key reads as removes the entry. -/
def Memory.write (m : Memory) (a : Nat) (v : Byte) : Memory :=
  if v = Config.unlistedByte then m.erase a else (m.erase a).insert a v

/-- Whether a memory key is that of one of the 13 registers (R60). -/
def isRegisterKey (a : Nat) : Bool := Register.all.any (fun r => r.key == a)

/-- The canonical form: addresses strictly rising, no entry equal to what an unlisted address reads as, and only the 13
registers listed. -/
abbrev Memory.wf (m : Memory) : Prop :=
  m.Pairwise (fun c d => c.1 < d.1) ∧ ∀ c ∈ m, c.2 ≠ Config.unlistedByte ∧ isRegisterKey c.1 = true

end Sys2Proof.Machine
end

