-- ==== Sys2Proof/Machine/Operands.lean ====
section
/-! DEFINITION. The BCD codec: the field constant table (R97), the two codec functions (R130, R131), the plain
day-of-week field (R99, R140, R147). Results are computed on natural numbers and narrowed where a rule says so (R13 to R15). -/

namespace Sys2Proof.Machine

/-- The BCD fields of R97; the day of the week is not one of them (R99). -/
inductive BcdField where
  | sec
  | min
  | hour
  | date
  | mon
  | yr
deriving DecidableEq, Repr

/-- How a set operation writes a field's register (R97, R207). -/
inductive Discipline where
  | readModifyWrite
  | directWrite
deriving DecidableEq, Repr

/-- A row of the field constant table (R97). -/
structure FieldRow where
  register : Register
  decTensMask : Byte
  tensShift : Nat
  unitsMask : Byte
  tensDivisor : Nat
  encTensMask : Byte
  preserveMask : Byte
  least : Nat
  greatest : Nat
  discipline : Discipline
deriving DecidableEq, Repr

/-- The field constant table (R97, R98). -/
def BcdField.row : BcdField → FieldRow
  | .sec => ⟨.seconds, 0x70, 4, 0x0F, 10, 0x07, 0x80, 0, 59, .readModifyWrite⟩
  | .min => ⟨.minutes, 0x70, 4, 0x0F, 10, 0x07, 0x00, 0, 59, .directWrite⟩
  | .hour => ⟨.centHours, 0x30, 4, 0x0F, 10, 0x03, 0xC0, 0, 23, .readModifyWrite⟩
  | .date => ⟨.date, 0x30, 4, 0x0F, 10, 0x03, 0x00, 1, 31, .directWrite⟩
  | .mon => ⟨.month, 0x10, 4, 0x0F, 10, 0x01, 0x00, 1, 12, .directWrite⟩
  | .yr => ⟨.year, 0xF0, 4, 0x0F, 10, 0x0F, 0x00, 0, 99, .directWrite⟩

/-- `bcd_decode` (R130): mask in place, shift, `tens * 10 + units`, no range check. -/
def bcdDecode (byte tensMask : Byte) (tensShift : Nat) (unitsMask : Byte) : Nat :=
  ((byte &&& tensMask) >>> tensShift).toNat * 10 + (byte &&& unitsMask).toNat

/-- `bcd_encode` (R131). The divisor argument is kept for fidelity and unused, as in the source: the function is specified
for the value 10 only, which every row of R97 passes (C3, U10). -/
def bcdEncode (value _tensDivisor : Nat) (tensMask unitsMask preserveMask currentByte : Byte) : Byte :=
  let tens := (value / 10) &&& tensMask.toNat
  let units := (value % 10) &&& unitsMask.toNat
  (currentByte &&& preserveMask) ||| BitVec.ofNat 8 (tens <<< 4) ||| BitVec.ofNat 8 units

/-- `DEC.f`: the field's decode with its row of constants (R134 to R139). -/
def decodeField (f : BcdField) (byte : Byte) : Nat :=
  bcdDecode byte f.row.decTensMask f.row.tensShift f.row.unitsMask

/-- `ENC.f`: the field's encode with its row of constants (R141 to R146). -/
def encodeField (f : BcdField) (value : Nat) (currentByte : Byte) : Byte :=
  bcdEncode value f.row.tensDivisor f.row.encTensMask f.row.unitsMask f.row.preserveMask currentByte

/-- `dayMask` (R99). -/
def dayMask : Byte := 0x07

/-- `DEC.DAY`: the day code of a Day register byte (R140). -/
def decodeDay (byte : Byte) : Nat := (byte &&& dayMask).toNat

/-- `ENC.DAY`: the Day register byte of a day code (R147). -/
def encodeDay (value : Byte) : Byte := value &&& dayMask

end Sys2Proof.Machine
end

