-- ==== Sys2Proof/Machine/Ops.lean ====
section
/-! DEFINITION. The shared operations: register access, the peripheral's own steps (R48 to R50), the transport calls that
`MemRead` and `MemWrite` decompose into (R71 to R76), delivering a result bundle (R106, R107), the abort, which is this
hardware's whole exception mechanism (R230, R236, R237), and reset (R260 to R262). There is no return from exception: after
an abort the block is idle and takes the next command (R239). -/

namespace Sys2Proof.Machine

/-! ### Field updates -/

def State.setBaseline (s : State) (v : Year) : State := { s with baseline := v }

def State.setRegs (s : State) (m : Memory) : State := { s with reg := m }

def State.setLatch (s : State) (v : Byte) : State := { s with latch := v }

def State.setBusHeld (s : State) (v : Bool) : State := { s with busHeld := v }

def State.setHost (s : State) (v : List HostMove) : State := { s with host := v }

def State.setEnv (s : State) (v : List EnvMove) : State := { s with env := v }

/-- One more event on the ports (R107). -/
def State.emit (s : State) (e : PortEvent) : State := { s with port := s.port ++ [e] }

/-- One more free value drawn (log entry 2). -/
def State.drew (s : State) : State := { s with draws := s.draws + 1 }

/-! ### Registers -/

/-- `REG[ADDR_r]`. -/
def State.readReg (s : State) (r : Register) : Byte := s.reg.read r.key

/-- `REG[ADDR_r] <- v`. -/
def State.writeReg (s : State) (r : Register) (v : Byte) : State := s.setRegs (s.reg.write r.key v)

/-- The two states of the peripheral's clock (R25). -/
inductive RunState where
  | running
  | halted
deriving DecidableEq, Repr

/-- Running or Halted, read off bit 7 of Seconds (R25). -/
def State.runState (s : State) : RunState := if haltBit (s.readReg .seconds) then .halted else .running

/-! ### The peripheral on its own -/

/-- New digits in the field of one register: the bits under `keep` stay, `digits` stand beside them. -/
def tickReg (r : Register) (keep digits : Byte) (m : Memory) : Memory :=
  m.write r.key ((m.read r.key &&& keep) ||| digits)

/-- CENT after a tick (R49, R50): a carry sets it; what a carry does to a bit that is already 1 is not settled (C7, U5),
so it is then a free value. -/
def centAfter (s : State) (carry : Bool) : Bool :=
  let cent := centBit (s.readReg .centHours)
  if carry then (if cent then (Config.freeByte s.draws).getLsbD 0 else true) else cent

/-- The seven time and calendar registers after a tick: `keep` is every bit that is no digit of the register, less CENT. -/
def tickFields (t : Tick) (cent : Byte) (m : Memory) : Memory :=
  tickReg .year 0x00 t.year
    (tickReg .month 0xE0 (t.month.setWidth 8)
      (tickReg .date 0xC0 (t.date.setWidth 8)
        (tickReg .day 0xF8 (t.day.setWidth 8)
          (tickReg .centHours 0x40 (cent ||| t.hour.setWidth 8)
            (tickReg .minutes 0x80 (t.min.setWidth 8)
              (tickReg .seconds 0x80 (t.sec.setWidth 8) m))))))

/-- One step of the peripheral (R50): none while HALT is 1; otherwise the digit fields take the tick's values, CENT moves by
the carry, and HALT, bit 7 of Minutes, bit 6 of CentHours and every bit outside a field stay (log entry 9). -/
def applyTick (t : Tick) (s : State) : State :=
  match s.runState with
  | .halted => s
  | .running => (s.setRegs (tickFields t (if centAfter s t.carry then 0x80 else 0) s.reg)).drew

/-- The ticks that stand at the head of the environment's list, taken in order. -/
def runTicks : List EnvMove → State → State
  | [], s => s.setEnv []
  | .tick t :: e, s => runTicks e (applyTick t s)
  | .answer ok :: e, s => s.setEnv (.answer ok :: e)

/-- The steps the peripheral takes before anything else happens. -/
def State.ticks (s : State) : State := runTicks s.env s

/-- The answer the transport gives to the next call: the first answer listed, OK when none is listed (log entry 3). -/
def nextAnswer : List EnvMove → Bool
  | [] => true
  | .tick _ :: e => nextAnswer e
  | .answer ok :: _ => ok

/-- The environment's list after that answer. -/
def afterAnswer : List EnvMove → List EnvMove
  | [] => []
  | .tick _ :: e => afterAnswer e
  | .answer _ :: e => e

/-- Whether the environment answers OK to each of the next `n` transport calls. -/
def answersOk : Nat → List EnvMove → Bool
  | 0, _ => true
  | n + 1, e => nextAnswer e && answersOk n (afterAnswer e)

/-- The state at the moment the transport answers its next call: the peripheral has taken the steps that come before
(R50), and the answer is used up. -/
def State.settle (s : State) : State := s.ticks.setEnv (afterAnswer s.env)

/-! ### Transactions -/

/-- How a register transaction ends. -/
inductive Txn where
  | done (s : State)
  | failed (s : State)
deriving DecidableEq, Repr

/-- After a failed call the held-bus state is a free value (R47, U6; log entry 7). -/
def State.unknownBus (s : State) : State := (s.setBusHeld ((Config.freeByte s.draws).getLsbD 0)).drew

/-- The next free byte put into register `r`. -/
def State.unknownReg (s : State) (r : Register) : State := (s.writeReg r (Config.freeByte s.draws)).drew

/-- After a failed transaction every register may hold any byte (R75, D20, U4; log entry 6). -/
def State.unknownDevice (s : State) : State := Register.all.foldl State.unknownReg s

/-- The data phase of `read_byte` (R72): the byte the register holds at that moment goes to the latch (R22) and the bus is
released (R47). -/
def dataPhase (r : Register) (s : State) : Txn :=
  let s1 := s.settle
  if nextAnswer s.env then
    .done (((s1.emit (.read s.params.deviceAddr (some (s1.readReg r)))).setLatch (s1.readReg r)).setBusHeld false)
  else .failed (s1.emit (.read s.params.deviceAddr none)).unknownBus.unknownDevice

/-- The address phase of `read_byte` (R72): the address byte, with the bus held open (R47). -/
def addressPhase (r : Register) (s : State) : Txn :=
  let s1 := s.settle
  if nextAnswer s.env then
    .done ((s1.emit (.write s.params.deviceAddr [s.params.addresses.addr r] true true)).setBusHeld true)
  else .failed (s1.emit (.write s.params.deviceAddr [s.params.addresses.addr r] true false)).unknownBus.unknownDevice

/-- `MemRead(r, 1)`, `read_byte` (R72): the data phase is not attempted when the address phase failed. -/
def memRead (r : Register) (s : State) : Txn :=
  match addressPhase r s with
  | .done s1 => dataPhase r s1
  | .failed s1 => .failed s1

/-- `MemWrite(r, 1, v)`, `write_byte` (R73): the address byte and the data byte in one call, the bus not held. -/
def memWrite (r : Register) (v : Byte) (s : State) : Txn :=
  let s1 := s.settle
  if nextAnswer s.env then
    .done (((s1.emit (.write s.params.deviceAddr [s.params.addresses.addr r, v] false true)).setBusHeld false).writeReg r v)
  else .failed (s1.emit (.write s.params.deviceAddr [s.params.addresses.addr r, v] false false)).unknownBus.unknownDevice

/-! ### Outcomes -/

/-- The bundle of an operation whose one result is `n`, narrowed to the 16 bits of `res` (R106, R111). -/
def Bundle.value (n : Nat) : Bundle := .ok (BitVec.ofNat 16 n) 0 false

/-- The bundle of an operation that returns nothing (R106). -/
def Bundle.empty : Bundle := .ok 0 0 false

/-- The 2-bit `status` of a bundle (R106); 3 is never produced. -/
def Bundle.status : Bundle → BitVec 2
  | .ok _ _ _ => 0
  | .transportError => 1
  | .illegalCommand => 2

/-- The end of an operation that made no transaction: its bundle appears on the result port and nothing else happens
(R107). -/
def deliver (b : Bundle) (s : State) : State := s.emit (.result b)

/-- The end of a sequenced operation: its bundle appears, after its last transaction (R107), and the latch's content is from
now on unspecified (R22, U11; log entry 8). -/
def finish (b : Bundle) (s : State) : State := ((deliver b s).setLatch (Config.freeByte s.draws)).drew

/-- TAKING THE EXCEPTION (R230, R236): a failed transaction ends the operation with `TransportError`; no further
transaction, no rollback, no result value, nothing saved, no transfer of control; the block is idle again. -/
def abort (s : State) : State := finish .transportError s

/-- `IllegalCommand` (R113, R231): no transaction, no change of `baseline` or `REG`. -/
def illegalCommand (s : State) : State := deliver .illegalCommand s

/-- `t = MemRead(r, 1)` and then the rest of the operation with `t` in the latch, or the abort. -/
def readThen (r : Register) (rest : Byte → State → State) (s : State) : State :=
  match memRead r s with
  | .done s1 => rest s1.latch s1
  | .failed s1 => abort s1

/-- `MemWrite(r, 1, v)` and then the rest of the operation, or the abort. -/
def writeThen (r : Register) (v : Byte) (rest : State → State) (s : State) : State :=
  match memWrite r v s with
  | .done s1 => rest s1
  | .failed s1 => abort s1

/-! ### The century tracker -/

/-- `(fullYear / 100) * 100` (R14, R162). -/
def centuryOf (y : Year) : Year := BitVec.ofNat 16 (y.toNat / 100 * 100)

/-- `fullYear % 100` (R14, R162). -/
def shortYearOf (y : Year) : Byte := BitVec.ofNat 8 (y.toNat % 100)

/-- `decodeYear` (R161): `baseline`, plus 100 if the overflow bit is set, plus the decoded year byte, truncated to 16 bits
(R15). -/
def fullYearOf (baseline : Year) (rawYearByte : Byte) (centOverflowBit : Bool) : Year :=
  BitVec.ofNat 16 (baseline.toNat + (if centOverflowBit then 100 else 0) + decodeField .yr rawYearByte)

/-- `needsOverflowReset` of `prepareYearWrite` (R162). -/
def needsOverflowReset (s : State) (y : Year) : Bool := centuryOf y != s.baseline

/-- The write of `baseline` in `prepareYearWrite` (R162), the only one anywhere. -/
def commitBaseline (y : Year) (s : State) : State :=
  if needsOverflowReset s y then s.setBaseline (centuryOf y) else s

/-- The triple of `prepareYearWrite`: `flag = needsOverflowReset`, `res = newBaseline`, `aux = shortYear` (R106, R162); `s`
is the state before the update. -/
def yearBundle (y : Year) (s : State) : Bundle :=
  .ok (commitBaseline y s).baseline (shortYearOf y) (needsOverflowReset s y)

/-! ### The block and the host -/

/-- The effect of a reset (R260, R261): `baseline` is `BASELINE_RESET`, no transaction is made, `REG` is what it was. -/
def resetBlock (s : State) : State := s.setBaseline s.params.baselineReset

/-- A command abandoned by a reset (R262): no bundle, and the latch's content is from now on unspecified (R22); the rest is
the reset. -/
def abandon (s : State) : State := resetBlock ((s.setLatch (Config.freeByte s.draws)).drew)

/-- What a reset leaves of a transaction in flight on `r` (R262, U7): whether it completes is open, so the register may hold
any byte, and so is the held-bus state. -/
def cutOff (r : Register) (s : State) : State := s.unknownBus.unknownReg r

end Sys2Proof.Machine
end

