-- ==== Sys2Proof/Machine/Plan.lean ====
section
/-! DEFINITION. An operation as the fixed sequence of transactions its rule lists (R23, R67, R76), carried out to its bundle, or
only until a reset cuts it short (R262). -/

namespace Sys2Proof.Machine

/-- The steps of an operation. -/
inductive Plan where
  /-- The end of an operation that makes no transaction. -/
  | reply (b : Bundle)
  /-- The end of a sequenced operation. -/
  | finish (b : Bundle)
  /-- The write of `baseline` in `prepareYearWrite` (R162). -/
  | commit (fullYear : Year) (next : Plan)
  /-- `t = MemRead(r, 1)`, and `next t`. -/
  | read (r : Register) (next : Byte → Plan)
  /-- `MemWrite(r, 1, v)`. -/
  | write (r : Register) (v : Byte) (next : Plan)

/-- The operation carried out: to its bundle, or to the abort at the first transaction that fails (R236). -/
def Plan.run : Plan → State → State
  | .reply b, s => deliver b s
  | .finish b, s => Sys2Proof.Machine.finish b s
  | .commit y p, s => p.run (commitBaseline y s)
  | .read r next, s => readThen r (fun t s1 => (next t).run s1) s
  | .write r v p, s => writeThen r v (fun s1 => p.run s1) s

/-- The operation until a reset that comes when `calls` of its transport calls have been answered (R262); `inFlight` says
whether the next one has been made. What is completed stands, a transaction in flight is cut off, no bundle appears. A reset
that comes when every call has been answered finds the bundle not yet shown; one that comes when a call has already failed
finds the block idle. -/
def Plan.cutShort : Plan → Nat → Bool → State → State
  | .reply _, _, _, s => abandon s
  | .finish _, _, _, s => abandon s
  | .commit y p, calls, inFlight, s => p.cutShort calls inFlight (commitBaseline y s)
  | .read _ _, 0, false, s => abandon s
  | .read r _, 0, true, s =>
    abandon (cutOff r (s.ticks.emit (.cutWrite s.params.deviceAddr [s.params.addresses.addr r] true)))
  | .read r _, 1, inFlight, s =>
    match addressPhase r s with
    | .done s1 => abandon (cutOff r (if inFlight then s1.ticks.emit (.cutRead s.params.deviceAddr) else s1))
    | .failed s1 => resetBlock (abort s1)
  | .read r next, calls + 2, inFlight, s =>
    match memRead r s with
    | .done s1 => (next s1.latch).cutShort calls inFlight s1
    | .failed s1 => resetBlock (abort s1)
  | .write _ _ _, 0, false, s => abandon s
  | .write r v _, 0, true, s =>
    abandon (cutOff r (s.ticks.emit (.cutWrite s.params.deviceAddr [s.params.addresses.addr r, v] false)))
  | .write r v p, calls + 1, inFlight, s =>
    match memWrite r v s with
    | .done s1 => p.cutShort calls inFlight s1
    | .failed s1 => resetBlock (abort s1)

/-! ### Shared shapes -/

/-- A read-modify-write of one register (R69, R76): the write is always made. -/
def modifyPlan (r : Register) (change : Byte → Byte) (next : Plan) : Plan :=
  .read r (fun t => .write r (change t) next)

/-- A get of a register field (R180): one read, the decode of the byte returned. -/
def getPlan (r : Register) (read : Byte → Nat) : Plan := .read r (fun t => .finish (.value (read t)))

/-- A get of a BCD field (R180). -/
def getFieldPlan (f : BcdField) : Plan := getPlan f.row.register (decodeField f)

/-- A direct write of one byte (R207). -/
def writePlan (r : Register) (v : Byte) : Plan := .write r v (.finish .empty)

/-- A set of a BCD field (R207), by the field's write discipline (R97). -/
def setFieldPlan (f : BcdField) (value : Byte) : Plan :=
  match f.row.discipline with
  | .readModifyWrite => modifyPlan f.row.register (encodeField f value.toNat) (.finish .empty)
  | .directWrite => writePlan f.row.register (encodeField f value.toNat 0)

end Sys2Proof.Machine
end

