-- ==== Sys2Proof/Machine/Bus.lean ====
section
/-! DEFINITION. The register access primitives `RDB` and `WRB` (R220 to R222): absolute addressing, one byte, no mask. -/

namespace Sys2Proof.Machine

open Host (Outcome)

/-- `RDB register` (R220): `IllegalCommand` when the address is not in the map. -/
def planRdb (register : Byte) (s : State) : Plan :=
  match s.params.addresses.ofAddr register with
  | some r => getPlan r BitVec.toNat
  | none => .reply .illegalCommand

/-- `RDB register` carried out. -/
def execRdb (register : Byte) (s : State) : Outcome State Fault Refusal :=
  .next ((planRdb register s).run s)

/-- `WRB register, byte` (R221): all 8 bits as given; `IllegalCommand` when the address is not in the map. -/
def planWrb (register byte : Byte) (s : State) : Plan :=
  match s.params.addresses.ofAddr register with
  | some r => writePlan r byte
  | none => .reply .illegalCommand

/-- `WRB register, byte` carried out. -/
def execWrb (register byte : Byte) (s : State) : Outcome State Fault Refusal :=
  .next ((planWrb register byte s).run s)

end Sys2Proof.Machine
end

