-- ==== Sys2Proof/Machine/Codec.lean ====
section
/-! DEFINITION. The pure codec operations `DEC.f` and `ENC.f` (R134 to R147): no transaction, no state read or written,
always `OK`. -/

namespace Sys2Proof.Machine

open Host (Outcome)

/-- `DEC.SEC byte` (R134). -/
def planDecSec (byte : Byte) : Plan := .reply (.value (decodeField .sec byte))

/-- `DEC.SEC byte` carried out. -/
def execDecSec (byte : Byte) (s : State) : Outcome State Fault Refusal :=
  .next ((planDecSec byte).run s)

/-- `DEC.MIN byte` (R135). -/
def planDecMin (byte : Byte) : Plan := .reply (.value (decodeField .min byte))

/-- `DEC.MIN byte` carried out. -/
def execDecMin (byte : Byte) (s : State) : Outcome State Fault Refusal :=
  .next ((planDecMin byte).run s)

/-- `DEC.HOUR byte` (R136). -/
def planDecHour (byte : Byte) : Plan := .reply (.value (decodeField .hour byte))

/-- `DEC.HOUR byte` carried out. -/
def execDecHour (byte : Byte) (s : State) : Outcome State Fault Refusal :=
  .next ((planDecHour byte).run s)

/-- `DEC.DAY byte` (R140). -/
def planDecDay (byte : Byte) : Plan := .reply (.value (decodeDay byte))

/-- `DEC.DAY byte` carried out. -/
def execDecDay (byte : Byte) (s : State) : Outcome State Fault Refusal :=
  .next ((planDecDay byte).run s)

/-- `DEC.DATE byte` (R137). -/
def planDecDate (byte : Byte) : Plan := .reply (.value (decodeField .date byte))

/-- `DEC.DATE byte` carried out. -/
def execDecDate (byte : Byte) (s : State) : Outcome State Fault Refusal :=
  .next ((planDecDate byte).run s)

/-- `DEC.MON byte` (R138). -/
def planDecMon (byte : Byte) : Plan := .reply (.value (decodeField .mon byte))

/-- `DEC.MON byte` carried out. -/
def execDecMon (byte : Byte) (s : State) : Outcome State Fault Refusal :=
  .next ((planDecMon byte).run s)

/-- `DEC.YR byte` (R139). -/
def planDecYr (byte : Byte) : Plan := .reply (.value (decodeField .yr byte))

/-- `DEC.YR byte` carried out. -/
def execDecYr (byte : Byte) (s : State) : Outcome State Fault Refusal :=
  .next ((planDecYr byte).run s)

/-- `ENC.SEC value, currentByte` (R141). -/
def planEncSec (value currentByte : Byte) : Plan :=
  .reply (.value (encodeField .sec value.toNat currentByte).toNat)

/-- `ENC.SEC value, currentByte` carried out. -/
def execEncSec (value currentByte : Byte) (s : State) : Outcome State Fault Refusal :=
  .next ((planEncSec value currentByte).run s)

/-- `ENC.MIN value, currentByte` (R142). -/
def planEncMin (value currentByte : Byte) : Plan :=
  .reply (.value (encodeField .min value.toNat currentByte).toNat)

/-- `ENC.MIN value, currentByte` carried out. -/
def execEncMin (value currentByte : Byte) (s : State) : Outcome State Fault Refusal :=
  .next ((planEncMin value currentByte).run s)

/-- `ENC.HOUR value, currentByte` (R143). -/
def planEncHour (value currentByte : Byte) : Plan :=
  .reply (.value (encodeField .hour value.toNat currentByte).toNat)

/-- `ENC.HOUR value, currentByte` carried out. -/
def execEncHour (value currentByte : Byte) (s : State) : Outcome State Fault Refusal :=
  .next ((planEncHour value currentByte).run s)

/-- `ENC.DAY value, currentByte` (R147); `currentByte` has no effect (R114). -/
def planEncDay (value _currentByte : Byte) : Plan := .reply (.value (encodeDay value).toNat)

/-- `ENC.DAY value, currentByte` carried out. -/
def execEncDay (value _currentByte : Byte) (s : State) : Outcome State Fault Refusal :=
  .next ((planEncDay value _currentByte).run s)

/-- `ENC.DATE value, currentByte` (R144). -/
def planEncDate (value currentByte : Byte) : Plan :=
  .reply (.value (encodeField .date value.toNat currentByte).toNat)

/-- `ENC.DATE value, currentByte` carried out. -/
def execEncDate (value currentByte : Byte) (s : State) : Outcome State Fault Refusal :=
  .next ((planEncDate value currentByte).run s)

/-- `ENC.MON value, currentByte` (R145). -/
def planEncMon (value currentByte : Byte) : Plan :=
  .reply (.value (encodeField .mon value.toNat currentByte).toNat)

/-- `ENC.MON value, currentByte` carried out. -/
def execEncMon (value currentByte : Byte) (s : State) : Outcome State Fault Refusal :=
  .next ((planEncMon value currentByte).run s)

/-- `ENC.YR value, currentByte` (R146). -/
def planEncYr (value currentByte : Byte) : Plan :=
  .reply (.value (encodeField .yr value.toNat currentByte).toNat)

/-- `ENC.YR value, currentByte` carried out. -/
def execEncYr (value currentByte : Byte) (s : State) : Outcome State Fault Refusal :=
  .next ((planEncYr value currentByte).run s)

end Sys2Proof.Machine
end

