-- ==== Sys2Proof/Machine/Get.lean ====
section
/-! DEFINITION. The get operations (R180 to R188): they write nothing and can end only `OK` or `TransportError`. -/

namespace Sys2Proof.Machine

open Host (Outcome)

/-- `GET.SEC` (R181). -/
def planGetSec : Plan := getFieldPlan .sec

/-- `GET.SEC` carried out. -/
def execGetSec (s : State) : Outcome State Fault Refusal :=
  .next (planGetSec.run s)

/-- `GET.MIN` (R182). -/
def planGetMin : Plan := getFieldPlan .min

/-- `GET.MIN` carried out. -/
def execGetMin (s : State) : Outcome State Fault Refusal :=
  .next (planGetMin.run s)

/-- `GET.HOUR` (R183). -/
def planGetHour : Plan := getFieldPlan .hour

/-- `GET.HOUR` carried out. -/
def execGetHour (s : State) : Outcome State Fault Refusal :=
  .next (planGetHour.run s)

/-- `GET.DAY` (R184). -/
def planGetDay : Plan := getPlan .day decodeDay

/-- `GET.DAY` carried out. -/
def execGetDay (s : State) : Outcome State Fault Refusal :=
  .next (planGetDay.run s)

/-- `GET.DATE` (R185). -/
def planGetDate : Plan := getFieldPlan .date

/-- `GET.DATE` carried out. -/
def execGetDate (s : State) : Outcome State Fault Refusal :=
  .next (planGetDate.run s)

/-- `GET.MON` (R186). -/
def planGetMon : Plan := getFieldPlan .mon

/-- `GET.MON` carried out. -/
def execGetMon (s : State) : Outcome State Fault Refusal :=
  .next (planGetMon.run s)

/-- `GET.YR` (R187). -/
def planGetYr : Plan := getFieldPlan .yr

/-- `GET.YR` carried out. -/
def execGetYr (s : State) : Outcome State Fault Refusal :=
  .next (planGetYr.run s)

/-- `GET.YEAR` (R188): Year first, CentHours second, then `DECYEAR` with bit 7 of the second byte. The first byte is held
by the operation while the latch takes the second (R22). -/
def planGetYear (s : State) : Plan :=
  .read .year (fun y => .read .centHours (fun c =>
    .finish (.ok (fullYearOf s.baseline y (centBit c)) 0 false)))

/-- `GET.YEAR` carried out. -/
def execGetYear (s : State) : Outcome State Fault Refusal :=
  .next ((planGetYear s).run s)

end Sys2Proof.Machine
end

