-- ==== Sys2Proof/Machine/Run.lean ====
section
/-! DEFINITION. Run control `START` and `STOP` (R170 to R172): read-modify-write of the Seconds register. -/

namespace Sys2Proof.Machine

open Host (Outcome)

/-- `START` (R170): Halted to Running, bits 6:0 written back as read. -/
def planStart : Plan := modifyPlan .seconds clearBit7 (.finish .empty)

/-- `START` carried out. -/
def execStart (s : State) : Outcome State Fault Refusal :=
  .next (planStart.run s)

/-- `STOP` (R171): Running to Halted, bits 6:0 written back as read. -/
def planStop : Plan := modifyPlan .seconds setBit7 (.finish .empty)

/-- `STOP` carried out. -/
def execStop (s : State) : Outcome State Fault Refusal :=
  .next (planStop.run s)

end Sys2Proof.Machine
end

