-- ==== Sys2Proof/Machine/Set.lean ====
section
/-! DEFINITION. The set operations (R200 to R208): no operand is checked. -/

namespace Sys2Proof.Machine

open Host (Outcome)

/-- `SET.SEC value` (R200). -/
def planSetSec (value : Byte) : Plan := setFieldPlan .sec value

/-- `SET.SEC value` carried out. -/
def execSetSec (value : Byte) (s : State) : Outcome State Fault Refusal :=
  .next ((planSetSec value).run s)

/-- `SET.MIN value` (R201). -/
def planSetMin (value : Byte) : Plan := setFieldPlan .min value

/-- `SET.MIN value` carried out. -/
def execSetMin (value : Byte) (s : State) : Outcome State Fault Refusal :=
  .next ((planSetMin value).run s)

/-- `SET.HOUR value` (R202). -/
def planSetHour (value : Byte) : Plan := setFieldPlan .hour value

/-- `SET.HOUR value` carried out. -/
def execSetHour (value : Byte) (s : State) : Outcome State Fault Refusal :=
  .next ((planSetHour value).run s)

/-- `SET.DAY value` (R203). -/
def planSetDay (value : Byte) : Plan := writePlan .day (encodeDay value)

/-- `SET.DAY value` carried out. -/
def execSetDay (value : Byte) (s : State) : Outcome State Fault Refusal :=
  .next ((planSetDay value).run s)

/-- `SET.DATE value` (R204). -/
def planSetDate (value : Byte) : Plan := setFieldPlan .date value

/-- `SET.DATE value` carried out. -/
def execSetDate (value : Byte) (s : State) : Outcome State Fault Refusal :=
  .next ((planSetDate value).run s)

/-- `SET.MON value` (R205). -/
def planSetMon (value : Byte) : Plan := setFieldPlan .mon value

/-- `SET.MON value` carried out. -/
def execSetMon (value : Byte) (s : State) : Outcome State Fault Refusal :=
  .next ((planSetMon value).run s)

/-- `SET.YR value` (R206). -/
def planSetYr (value : Byte) : Plan := setFieldPlan .yr value

/-- `SET.YR value` carried out. -/
def execSetYr (value : Byte) (s : State) : Outcome State Fault Refusal :=
  .next ((planSetYr value).run s)

/-- `SET.YEAR fullYear` (R208): the tracker first, then the overflow clear of CentHours if the century changed, then the
Year write. -/
def planSetYear (fullYear : Year) (s : State) : Plan :=
  let writeYear : Plan :=
    .write .year (encodeField .yr (shortYearOf fullYear).toNat 0) (.finish (yearBundle fullYear s))
  .commit fullYear
    (if needsOverflowReset s fullYear then modifyPlan .centHours clearBit7 writeYear else writeYear)

/-- `SET.YEAR fullYear` carried out. -/
def execSetYear (fullYear : Year) (s : State) : Outcome State Fault Refusal :=
  .next ((planSetYear fullYear s).run s)

end Sys2Proof.Machine
end

