-- ==== Sys2Proof/Machine/Tracker.lean ====
section
/-! DEFINITION. The century tracker `DECYEAR` and `PREPYEAR` (R160 to R164): neither performs a transaction. -/

namespace Sys2Proof.Machine

open Host (Outcome)

/-- `DECYEAR rawYearByte, centOverflowBit` (R161): reads `baseline`, writes nothing. -/
def planDecYear (rawYearByte : Byte) (centOverflowBit : Bool) (s : State) : Plan :=
  .reply (.ok (fullYearOf s.baseline rawYearByte centOverflowBit) 0 false)

/-- `DECYEAR rawYearByte, centOverflowBit` carried out. -/
def execDecYear (rawYearByte : Byte) (centOverflowBit : Bool) (s : State) : Outcome State Fault Refusal :=
  .next ((planDecYear rawYearByte centOverflowBit s).run s)

/-- `PREPYEAR fullYear` (R162): writes `baseline` when the century differs from it. -/
def planPrepYear (fullYear : Year) (s : State) : Plan := .commit fullYear (.reply (yearBundle fullYear s))

/-- `PREPYEAR fullYear` carried out. -/
def execPrepYear (fullYear : Year) (s : State) : Outcome State Fault Refusal :=
  .next ((planPrepYear fullYear s).run s)

end Sys2Proof.Machine
end

