-- ==== Sys2Proof/Machine/Dispatch.lean ====
section
/-! DEFINITION. The meaning of every instruction, one arm per constructor. -/

namespace Sys2Proof.Machine

open Host (Outcome)

def exec (i : Instr) (s : State) : Host.Outcome State Fault Refusal :=
  match i with
  | .decSec byte => Sys2Proof.Machine.execDecSec byte s
  | .decMin byte => Sys2Proof.Machine.execDecMin byte s
  | .decHour byte => Sys2Proof.Machine.execDecHour byte s
  | .decDay byte => Sys2Proof.Machine.execDecDay byte s
  | .decDate byte => Sys2Proof.Machine.execDecDate byte s
  | .decMon byte => Sys2Proof.Machine.execDecMon byte s
  | .decYr byte => Sys2Proof.Machine.execDecYr byte s
  | .encSec value currentByte => Sys2Proof.Machine.execEncSec value currentByte s
  | .encMin value currentByte => Sys2Proof.Machine.execEncMin value currentByte s
  | .encHour value currentByte => Sys2Proof.Machine.execEncHour value currentByte s
  | .encDay value currentByte => Sys2Proof.Machine.execEncDay value currentByte s
  | .encDate value currentByte => Sys2Proof.Machine.execEncDate value currentByte s
  | .encMon value currentByte => Sys2Proof.Machine.execEncMon value currentByte s
  | .encYr value currentByte => Sys2Proof.Machine.execEncYr value currentByte s
  | .decYear rawYearByte centOverflowBit => Sys2Proof.Machine.execDecYear rawYearByte centOverflowBit s
  | .prepYear fullYear => Sys2Proof.Machine.execPrepYear fullYear s
  | .getSec => Sys2Proof.Machine.execGetSec s
  | .getMin => Sys2Proof.Machine.execGetMin s
  | .getHour => Sys2Proof.Machine.execGetHour s
  | .getDay => Sys2Proof.Machine.execGetDay s
  | .getDate => Sys2Proof.Machine.execGetDate s
  | .getMon => Sys2Proof.Machine.execGetMon s
  | .getYr => Sys2Proof.Machine.execGetYr s
  | .getYear => Sys2Proof.Machine.execGetYear s
  | .setSec value => Sys2Proof.Machine.execSetSec value s
  | .setMin value => Sys2Proof.Machine.execSetMin value s
  | .setHour value => Sys2Proof.Machine.execSetHour value s
  | .setDay value => Sys2Proof.Machine.execSetDay value s
  | .setDate value => Sys2Proof.Machine.execSetDate value s
  | .setMon value => Sys2Proof.Machine.execSetMon value s
  | .setYr value => Sys2Proof.Machine.execSetYr value s
  | .setYear fullYear => Sys2Proof.Machine.execSetYear fullYear s
  | .start => Sys2Proof.Machine.execStart s
  | .stop => Sys2Proof.Machine.execStop s
  | .rdb register => Sys2Proof.Machine.execRdb register s
  | .wrb register byte => Sys2Proof.Machine.execWrb register byte s

end Sys2Proof.Machine
end

