-- ==== Sys2Proof/Machine/PlanOf.lean ====
section
/-! DEFINITION. The plan of every instruction, for a command that a reset cuts short (R262); `exec` runs the same plans. -/

namespace Sys2Proof.Machine

/-- The steps of an instruction issued in the state `s`, one arm per constructor. -/
def planOf (i : Instr) (s : State) : Plan :=
  match i with
  | .decSec byte => planDecSec byte
  | .decMin byte => planDecMin byte
  | .decHour byte => planDecHour byte
  | .decDay byte => planDecDay byte
  | .decDate byte => planDecDate byte
  | .decMon byte => planDecMon byte
  | .decYr byte => planDecYr byte
  | .encSec value currentByte => planEncSec value currentByte
  | .encMin value currentByte => planEncMin value currentByte
  | .encHour value currentByte => planEncHour value currentByte
  | .encDay value currentByte => planEncDay value currentByte
  | .encDate value currentByte => planEncDate value currentByte
  | .encMon value currentByte => planEncMon value currentByte
  | .encYr value currentByte => planEncYr value currentByte
  | .decYear rawYearByte centOverflowBit => planDecYear rawYearByte centOverflowBit s
  | .prepYear fullYear => planPrepYear fullYear s
  | .getSec => planGetSec
  | .getMin => planGetMin
  | .getHour => planGetHour
  | .getDay => planGetDay
  | .getDate => planGetDate
  | .getMon => planGetMon
  | .getYr => planGetYr
  | .getYear => planGetYear s
  | .setSec value => planSetSec value
  | .setMin value => planSetMin value
  | .setHour value => planSetHour value
  | .setDay value => planSetDay value
  | .setDate value => planSetDate value
  | .setMon value => planSetMon value
  | .setYr value => planSetYr value
  | .setYear fullYear => planSetYear fullYear s
  | .start => planStart
  | .stop => planStop
  | .rdb register => planRdb register s
  | .wrb register byte => planWrb register byte s

/-- An instruction issued in the state `s` and cut short by a reset (R262): see `Plan.cutShort`. -/
def cutCommand (i : Instr) (calls : Nat) (inFlight : Bool) (s : State) : State :=
  (planOf i s).cutShort calls inFlight s

end Sys2Proof.Machine
end

