-- ==== Sys2Proof/Machine/CommandPort.lean ====
section
/-! DEFINITION. The command port: what the block does with the host's next move (R17, R107, R241). The block has no program
counter and fetches nothing (R23, R70). -/

namespace Sys2Proof.Machine

/-- One host move: nothing when the host has none (the block is idle), a reset of the idle block (R260), or one command
carried out to its end before the next is accepted (R67, R107, R241). A word that spells no operation ends in
`IllegalCommand` at once, before any transaction (R113, R231, R235). A command that a reset cuts short is carried out as far
as the reset lets it (R262); a word that spells no operation is never in progress, so its reset finds the block idle. -/
def takeHostMove (s : State) : Host.Outcome State Fault Refusal :=
  match s.host with
  | [] => .next s
  | .reset :: rest => .next (resetBlock (s.setHost rest))
  | .command w :: rest =>
    match decode s.params.addresses w with
    | .ok i => exec i (s.setHost rest)
    | .error _ => .next (illegalCommand (s.setHost rest))
  | .cutShort w calls inFlight :: rest =>
    match decode s.params.addresses w with
    | .ok i => .next (cutCommand i calls inFlight (s.setHost rest))
    | .error _ => .next (resetBlock (illegalCommand (s.setHost rest)))

end Sys2Proof.Machine
end

