-- ==== Sys2Proof/Machine/Step.lean ====
section
/-! DEFINITION. One step of the machine, and how a command word reaches it. -/

namespace Sys2Proof.Machine

/-- One step: the peripheral's own steps that come first (R50), then one host move. -/
def step (s : State) : Host.Outcome State Fault Refusal := takeHostMove s.ticks

/-- The state in which the host's next command is the word whose first `nbits` bits are those of `w` (log entry 4). -/
def State.withFetchWord (s : State) (nbits w : Nat) : State :=
  s.setHost (.command (tableWord nbits w) :: s.host)

end Sys2Proof.Machine
end

