-- ==== Sys2Proof/Safety.lean ====
section
/-! DEFINITION. What claims about runs are said in: the invariant of the machine, the outcome of a command, a run without a
transport failure (R239: a model that wants "no fault recorded" keeps that in its safety layer), and the consistency of
the pair (`baseline`, CENT) (R46, R160). -/

namespace Sys2Proof.Machine

/-- The invariant: the register space is in canonical form and lists only the 13 registers (R60), `baseline` and
`BASELINE_RESET` are multiples of 100 (R6, R20), the register addresses are distinct (R61) and so are the day codes (R99). -/
abbrev State.Inv (s : State) : Prop :=
  s.reg.wf ∧ s.baseline.toNat % 100 = 0 ∧ s.params.baselineReset.toNat % 100 = 0 ∧
    s.params.addresses.wf ∧ s.params.dayCodes.wf

/-- The bundles the result port has shown, oldest first. -/
def bundlesOf : List PortEvent → List Bundle
  | [] => []
  | .result b :: es => b :: bundlesOf es
  | .write _ _ _ _ :: es => bundlesOf es
  | .read _ _ :: es => bundlesOf es
  | .cutWrite _ _ _ :: es => bundlesOf es
  | .cutRead _ :: es => bundlesOf es

/-- A run in which no command has ended in `TransportError`. -/
abbrev State.noTransportError (s : State) : Prop := Bundle.transportError ∉ bundlesOf s.port

/-- Nothing disturbs the next `n` transport calls: each is answered OK and the peripheral takes no step of its own
(`ENV_TICK = none`, R50). -/
def quiet : Nat → List EnvMove → Bool
  | 0, _ => true
  | _ + 1, [] => true
  | n + 1, .answer ok :: e => ok && quiet n e
  | _ + 1, .tick _ :: _ => false

/-- The enumerated day a result names, for the commands that return a day code (R99, R184). -/
def State.namedDay (s : State) : Bundle → Option DayOfWeek
  | .ok res _ _ => s.params.dayCodes.dayOf (res.setWidth 8)
  | .transportError => none
  | .illegalCommand => none

/-- The pair (`baseline`, CENT) counts from the true century (R46). -/
abbrev State.consistentWith (s : State) (century : Nat) : Prop :=
  century = s.baseline.toNat + 100 * (if centBit (s.readReg .centHours) then 1 else 0)

/-- The full year the tracker reconstructs from what the registers hold (R160, R161). -/
def State.displayedYear (s : State) : Year :=
  fullYearOf s.baseline (s.readReg .year) (centBit (s.readReg .centHours))

end Sys2Proof.Machine
end

