-- ==== Sys2Proof/Certificates/Slice0/Obligations.lean ====
section
/-! DEFINITION. The statements about the model, for the provers. Each docstring names the rule of the spec it formalises.

A statement about a sequenced operation names the state at the moment a call is answered by `settle`: `s.settle` is `s` after
the steps the peripheral takes before the transport's next answer (R50), `s.settle.settle` the same for the second call, and
so on. `answersOk n s.env` says that the transport answers the next `n` calls OK. Nothing is assumed about the
peripheral's own steps unless a statement says `quiet`.

Five things in them are the model's choice and no rule's: an environment list that is used up answers OK and ticks no more
(log entry 3), the moments at which a tick is taken (log entry 14), a command as one step (log entry 15), the fields
`env`, `host` and `port` with what they say of order (log entries 3, 4, 5), and where inside a command a reset is placed
(log entry 20). -/

namespace Sys2Proof.Claims

open Sys2Proof.Machine

/-! ### Words the statements are said in -/

/-- `((b & tensMask) >> 4) * 10 + (b & 0x0F)` (R130 with the constants of R97). -/
def digits (tensMask b : Byte) : Nat := ((b &&& tensMask) >>> 4).toNat * 10 + (b &&& 0x0F).toNat

/-- `(cur & preserve) | (((v / 10) & tensMask) << 4) | (v % 10)` (R131 with the constants of R97). -/
def packed (tensMask : Nat) (preserve : Byte) (v : Nat) (cur : Byte) : Byte :=
  (cur &&& preserve) ||| BitVec.ofNat 8 (((v / 10) &&& tensMask) * 16) ||| BitVec.ofNat 8 (v % 10)

/-- The state that differs from `s` in one thing: the bundle `b` has appeared on the result port. -/
def shows (s : State) (b : Bundle) : State := { s with port := s.port ++ [.result b] }

/-- The calls of a `MemRead` of `r` that returned `v` (R72). -/
def readCalls (s : State) (r : Register) (v : Byte) : List PortEvent :=
  [.write s.params.deviceAddr [s.params.addresses.addr r] true true, .read s.params.deviceAddr (some v)]

/-- The call of a `MemWrite` of `v` to `r` (R73). -/
def writeCall (s : State) (r : Register) (v : Byte) : List PortEvent :=
  [.write s.params.deviceAddr [s.params.addresses.addr r, v] false true]

/-- From `s`, `i` completes: it makes exactly the calls listed and then shows `b`; afterwards `baseline` and every byte of
`REG` are as given, the bus is released, and the construction arguments and the host's list are unchanged. -/
def Completes (i : Instr) (s : State) (calls : List PortEvent) (b : Bundle) (baseline : Year) (env : List EnvMove)
    (reg : Nat → Byte) : Prop :=
  ∃ t, exec i s = .next t ∧ t.port = s.port ++ calls ++ [.result b] ∧ t.baseline = baseline ∧
    (∀ a, t.reg.read a = reg a) ∧ t.busHeld = false ∧ t.params = s.params ∧ t.host = s.host ∧ t.env = env

/-- From `s`, `i` ends in `TransportError`: some calls, no result, then the error; `baseline` is as given. -/
def Aborts (i : Instr) (s : State) (baseline : Year) : Prop :=
  ∃ t calls, exec i s = .next t ∧ t.port = s.port ++ calls ++ [.result .transportError] ∧ bundlesOf calls = [] ∧
    t.baseline = baseline ∧ t.params = s.params ∧ t.host = s.host

/-- As `Aborts`, and no data byte was sent: every call made was a read, or the address phase of one. -/
def AbortsUnwritten (i : Instr) (s : State) (baseline : Year) : Prop :=
  ∃ t calls, exec i s = .next t ∧ t.port = s.port ++ calls ++ [.result .transportError] ∧ bundlesOf calls = [] ∧
    (∀ e ∈ calls, ∀ d bs ok, e ≠ .write d bs false ok) ∧ t.baseline = baseline ∧ t.params = s.params ∧ t.host = s.host

/-- The registers' bytes with `v` in `r`. -/
def withReg (s : State) (r : Register) (v : Byte) : Nat → Byte :=
  fun a => if a = r.key then v else s.reg.read a

/-- A pure decode operation (R134 to R140): its word, its result, the bound of its results. -/
def DecodeRule (op : Byte) (mk : Byte → Instr) (f : Byte → Nat) (greatest : Nat) : Prop :=
  ∀ (m : AddressMap) (s : State) (reserved b : Byte),
    decode m (word op reserved b) = .ok (mk b) ∧
    exec (mk b) s = .next (shows s (.ok (BitVec.ofNat 16 (f b)) 0 false)) ∧ f b ≤ greatest ∧ f 0xFF = greatest

/-- A pure encode operation (R141 to R147): its word, its result. -/
def EncodeRule (op : Byte) (mk : Byte → Byte → Instr) (f : Byte → Byte → Byte) : Prop :=
  ∀ (m : AddressMap) (s : State) (v c : Byte),
    decode m (word op c v) = .ok (mk v c) ∧
    exec (mk v c) s = .next (shows s (.ok ((f v c).setWidth 16) 0 false))

/-- A get of a register field (R181 to R187): its word whatever the reserved bits; one read of `r` and `f` of the byte that
`r` holds at that moment; `REG` is what the peripheral made of it; `TransportError` when the read fails. -/
def GetRule (op : Byte) (i : Instr) (r : Register) (f : Byte → Nat) : Prop :=
  (∀ (m : AddressMap) (arg : Year), decode m (wordYear op arg) = .ok i) ∧
  ∀ s : State,
    (answersOk 2 s.env = true →
      Completes i s (readCalls s r (s.settle.settle.readReg r))
        (.ok (BitVec.ofNat 16 (f (s.settle.settle.readReg r))) 0 false)
        s.baseline s.settle.settle.env s.settle.settle.reg.read) ∧
    (answersOk 2 s.env = false → AbortsUnwritten i s s.baseline)

/-- A read-modify-write of `r` by `f` (R170, R171, R200, R202). -/
def ModifyRule (i : Instr) (r : Register) (f : Byte → Byte) : Prop :=
  ∀ s : State,
    (answersOk 3 s.env = true →
      Completes i s
        (readCalls s r (s.settle.settle.readReg r) ++ writeCall s r (f (s.settle.settle.readReg r)))
        (.ok 0 0 false) s.baseline s.settle.settle.settle.env
        (withReg s.settle.settle.settle r (f (s.settle.settle.readReg r)))) ∧
    (answersOk 2 s.env = false → AbortsUnwritten i s s.baseline) ∧
    (answersOk 3 s.env = false → Aborts i s s.baseline)

/-- A direct write of `v` to `r` (R201, R203 to R206, R221). -/
def WriteRule (i : Instr) (r : Register) (v : Byte) : Prop :=
  ∀ s : State,
    (answersOk 1 s.env = true →
      Completes i s (writeCall s r v) (.ok 0 0 false) s.baseline s.settle.env (withReg s.settle r v)) ∧
    (answersOk 1 s.env = false → Aborts i s s.baseline)

/-- `WRB` of `v` to `r`, as `WriteRule` says it of the other direct writes. -/
def WrbRule (r : Register) (v : Byte) : Prop :=
  ∀ s : State, s.params.addresses.wf →
    let i := Instr.wrb (s.params.addresses.addr r) v
    (answersOk 1 s.env = true →
      Completes i s (writeCall s r v) (.ok 0 0 false) s.baseline s.settle.env (withReg s.settle r v)) ∧
    (answersOk 1 s.env = false → Aborts i s s.baseline)

/-- How many transport calls an operation makes when none fails (R39, R280). -/
def callCount (i : Instr) (s : State) : Nat :=
  match i with
  | .decSec _ | .decMin _ | .decHour _ | .decDay _ | .decDate _ | .decMon _ | .decYr _ => 0
  | .encSec _ _ | .encMin _ _ | .encHour _ _ | .encDay _ _ | .encDate _ _ | .encMon _ _ | .encYr _ _ => 0
  | .decYear _ _ | .prepYear _ => 0
  | .getSec | .getMin | .getHour | .getDay | .getDate | .getMon | .getYr => 2
  | .getYear => 4
  | .setSec _ | .setHour _ | .start | .stop => 3
  | .setMin _ | .setDay _ | .setDate _ | .setMon _ | .setYr _ => 1
  | .setYear y => if y.toNat / 100 * 100 = s.baseline.toNat then 1 else 4
  | .rdb _ => 2
  | .wrb _ _ => 1

/-- The `MemRead` and `MemWrite` columns of R280. -/
def transactionCount (i : Instr) (s : State) : Nat × Nat :=
  match i with
  | .decSec _ | .decMin _ | .decHour _ | .decDay _ | .decDate _ | .decMon _ | .decYr _ => (0, 0)
  | .encSec _ _ | .encMin _ _ | .encHour _ _ | .encDay _ _ | .encDate _ _ | .encMon _ _ | .encYr _ _ => (0, 0)
  | .decYear _ _ | .prepYear _ => (0, 0)
  | .getSec | .getMin | .getHour | .getDay | .getDate | .getMon | .getYr | .rdb _ => (1, 0)
  | .getYear => (2, 0)
  | .setSec _ | .setHour _ | .start | .stop => (1, 1)
  | .setMin _ | .setDay _ | .setDate _ | .setMon _ | .setYr _ | .wrb _ _ => (0, 1)
  | .setYear y => if y.toNat / 100 * 100 = s.baseline.toNat then (0, 1) else (1, 2)

/-- Whether a port event is a transport call answered OK. -/
def answeredOk : PortEvent → Bool
  | .write _ _ _ ok => ok
  | .read _ reply => reply.isSome
  | .cutWrite _ _ _ => false
  | .cutRead _ => false
  | .result _ => false

/-- Transport `write` calls, transport `read` calls, and the `write` calls that are a whole `MemWrite` (R71 to R73). -/
def isWriteCall : PortEvent → Bool
  | .write _ _ _ _ => true
  | .read _ _ => false
  | .cutWrite _ _ _ => true
  | .cutRead _ => false
  | .result _ => false

def isReadCall : PortEvent → Bool
  | .write _ _ _ _ => false
  | .read _ _ => true
  | .cutWrite _ _ _ => false
  | .cutRead _ => true
  | .result _ => false

def isMemWrite : PortEvent → Bool
  | .write _ _ holdBus _ => !holdBus
  | .read _ _ => false
  | .cutWrite _ _ _ => false
  | .cutRead _ => false
  | .result _ => false

/-- A transport call as the port shows it when a reset leaves it without an answer (R262). -/
def withoutAnswer : PortEvent → PortEvent
  | .write device bytes holdBus _ => .cutWrite device bytes holdBus
  | .read device _ => .cutRead device
  | .cutWrite device bytes holdBus => .cutWrite device bytes holdBus
  | .cutRead device => .cutRead device
  | .result b => .result b

/-- What `q` holds when the writes among `calls` have been made from `s`, in order, and nothing else has happened. -/
def lastWritten (s : State) (q : Register) (calls : List PortEvent) : Byte :=
  calls.foldl (fun held e =>
    match e with
    | .write _ [a, v] false true => if a = s.params.addresses.addr q then v else held
    | _ => held) (s.readReg q)

/-- Whether a transaction on `q` is in flight when `calls` calls of an operation have been answered: its address phase is the
last of them, or it is the next call, already made. -/
def inTransaction (s : State) (q : Register) (all : List PortEvent) (calls : Nat) (inFlight : Bool) : Prop :=
  (∃ device ok, (all.take calls).getLast? = some (.write device [s.params.addresses.addr q] true ok)) ∨
    (inFlight = true ∧ ∃ device bytes holdBus ok,
      all[calls]? = some (.write device (s.params.addresses.addr q :: bytes) holdBus ok))

/-- The registers an operation issued in `s` writes (R39, the `W` entries, the two rows of `SET.YEAR` told apart by `baseline`);
every other register is only read or not touched. -/
def mayWrite (s : State) (i : Instr) (r : Register) : Bool :=
  match i with
  | .decSec _ | .decMin _ | .decHour _ | .decDay _ | .decDate _ | .decMon _ | .decYr _ => false
  | .encSec _ _ | .encMin _ _ | .encHour _ _ | .encDay _ _ | .encDate _ _ | .encMon _ _ | .encYr _ _ => false
  | .decYear _ _ | .prepYear _ => false
  | .getSec | .getMin | .getHour | .getDay | .getDate | .getMon | .getYr | .getYear | .rdb _ => false
  | .setSec _ | .start | .stop => r == .seconds
  | .setMin _ => r == .minutes
  | .setHour _ => r == .centHours
  | .setDay _ => r == .day
  | .setDate _ => r == .date
  | .setMon _ => r == .month
  | .setYr _ => r == .year
  | .setYear y => r == .year || (r == .centHours && y.toNat / 100 * 100 != s.baseline.toNat)
  | .wrb a _ => s.params.addresses.addr r == a

/-- Bits 23:16 and the operand bits of a word: what is left when the reserved bits of its format are cleared (R102). -/
def formatMask (op : Byte) : Command :=
  if op.toNat < 0x07 then 0xFF00FF
  else if op.toNat = 0x20 then 0xFF01FF
  else if 0x30 ≤ op.toNat ∧ op.toNat ≤ 0x37 then 0xFF0000
  else if 0x40 ≤ op.toNat ∧ op.toNat ≤ 0x46 then 0xFF00FF
  else if op.toNat = 0x50 ∨ op.toNat = 0x51 then 0xFF0000
  else if op.toNat = 0x60 then 0xFF00FF
  else 0xFFFFFF

end Sys2Proof.Claims

open Sys2Proof Sys2Proof.Machine Sys2Proof.Claims

/-! ### The command word -/

/-- R100 to R102, R112: no bit of an encoding is dropped. -/
def Obligations.WellFormedInstructionDecodesBackFromItsWord : Prop :=
  ∀ (m : AddressMap) (i : Instr), i.wf m = true → decode m (encode i) = .ok i

/-- R114: the reserved bits are ignored by the decoder and written 0 by the encoder; all other bits are kept. -/
def Obligations.DecodedInstructionReencodesLessReservedBits : Prop :=
  ∀ (m : AddressMap) (w : Command) (i : Instr), decode m w = .ok i →
    i.wf m = true ∧ encode i = w &&& formatMask (opField w) ∧ decode m (encode i) = .ok i

/-- R113: exactly the unassigned ops, and `RDB` or `WRB` with no register address, spell no operation. -/
def Obligations.WordsThatSpellNoOperation : Prop :=
  ∀ (m : AddressMap) (w : Command),
    (decode m w = .error (.unassignedOp (opField w)) ↔
      let op := w.toNat / 0x10000
      (0x07 ≤ op ∧ op ≤ 0x0F) ∨ (0x17 ≤ op ∧ op ≤ 0x1F) ∨ (0x22 ≤ op ∧ op ≤ 0x2F) ∨ (0x38 ≤ op ∧ op ≤ 0x3F) ∨
        (0x48 ≤ op ∧ op ≤ 0x4F) ∨ (0x52 ≤ op ∧ op ≤ 0x5F) ∨ (0x62 ≤ op ∧ op ≤ 0xFF)) ∧
    (decode m w = .error (.notARegister (argLow w)) ↔
      (w.toNat / 0x10000 = 0x60 ∨ w.toNat / 0x10000 = 0x61) ∧ ∀ r : Register, (m.addr r).toNat ≠ w.toNat % 256) ∧
    (∀ e, decode m w = .error e → e = .unassignedOp (opField w) ∨ e = .notARegister (argLow w))

/-- Words written out in `95_test_vectors.md`, one per class and format, under the map of R61 (log entry 11). -/
def Obligations.WordsOfTheSpecDecode : Prop :=
  let d := decode AddressMap.standard
  d 0x0000D9 = .ok (.decSec 0xD9) ∧ d 0x10803B = .ok (.encSec 59 0x80) ∧
  d 0x20FF23 = .ok (.decYear 0x23 true) ∧ d 0x2107E7 = .ok (.prepYear 2023) ∧
  d 0x370000 = .ok .getYear ∧ d 0x41002D = .ok (.setMin 45) ∧ d 0x470834 = .ok (.setYear 2100) ∧
  d 0x510000 = .ok .stop ∧ d 0x600022 = .ok (.rdb 0x22) ∧ d 0x619202 = .ok (.wrb 0x02 0x92) ∧
  d 0x60000A = .error (.notARegister 0x0A) ∧ d 0x17FFFF = .error (.unassignedOp 0x17)

/-! ### A step -/

/-- R23, R241: a step carries out the next command of the host: after the peripheral's own steps that come first, it is
`exec` of the decoded instruction, the command taken off the host's list. -/
def Obligations.StepRunsTheDecodedCommand : Prop :=
  ∀ (s : State) (w : Command) (rest : List HostMove) (i : Instr),
    s.host = .command w :: rest → decode s.params.addresses w = .ok i → step s = exec i (s.ticks.setHost rest)

/-- R231: a word that spells no operation: `IllegalCommand`, no transaction, nothing else changed. -/
def Obligations.IllegalWordChangesNothing : Prop :=
  ∀ (s : State) (w : Command) (rest : List HostMove) (e : Reject),
    s.host = .command w :: rest → decode s.params.addresses w = .error e →
    step s = .next (shows (s.ticks.setHost rest) .illegalCommand)

/-- R260, R261: a reset writes `baseline` and nothing else, and makes no transaction. The ticks that come before it are the
peripheral's (log entry 14). -/
def Obligations.ResetWritesOnlyBaseline : Prop :=
  ∀ (s : State) (rest : List HostMove), s.host = .reset :: rest →
    step s = .next { s.ticks with baseline := s.params.baselineReset, host := rest }

/-- R17, R107: with no command from the host the block does nothing; only the peripheral takes its own steps. -/
def Obligations.IdleBlockDoesNothing : Prop :=
  ∀ s : State, s.host = [] → step s = .next s.ticks

/-- R67 (c), R241: every step takes exactly one move off the host's list, whatever becomes of the command. -/
def Obligations.CommandsAreTakenInHostOrder : Prop :=
  ∀ s t : State, step s = .next t → t.host = s.host.tail ∧ t.params = s.params

/-- No state stops the machine: every step answers a next state (R9, R232, R239). -/
def Obligations.EveryStepAnswersANextState : Prop :=
  ∀ s : State, ∃ t, step s = .next t

/-- R51, R260: `baseline` after reset is `BASELINE_RESET`, 2000, and the block is idle. -/
def Obligations.ResetLeavesBaseline2000AndIdle : Prop :=
  State.reset.baseline = 2000 ∧ State.reset.params.baselineReset = 2000 ∧ State.reset.host = [] ∧ State.reset.port = []

/-- The invariant at reset (R20; the empty register space is log entry 1). -/
def Obligations.ResetMeetsTheInvariant : Prop := State.reset.Inv

/-- R20, R60, R61, R99: `baseline` stays a multiple of 100, the register space stays canonical with only the 13 registers, and
the address map and the day codes stay injective. -/
def Obligations.EveryStepKeepsTheInvariant : Prop :=
  ∀ s t : State, s.Inv → step s = .next t → t.Inv

/-! ### The peripheral on its own -/

/-- R50: what a step of the peripheral may change, and what it never changes. That the bits of Day, Date and Month outside
their fields stay is the model's choice (log entry 9); what a carry does to a CENT of 1 is left free (R49, U5). -/
def Obligations.PeripheralStepStaysInItsEnvelope : Prop :=
  ∀ (k : Tick) (s : State),
    (haltBit (s.readReg .seconds) = true → applyTick k s = s) ∧
    (haltBit (s.readReg .seconds) = false →
      let t := applyTick k s
      t.readReg .seconds = (s.readReg .seconds &&& 0x80) ||| k.sec.setWidth 8 ∧
      t.readReg .minutes = (s.readReg .minutes &&& 0x80) ||| k.min.setWidth 8 ∧
      t.readReg .centHours &&& 0x7F = (s.readReg .centHours &&& 0x40) ||| k.hour.setWidth 8 ∧
      (k.carry = false → centBit (t.readReg .centHours) = centBit (s.readReg .centHours)) ∧
      (k.carry = true → centBit (s.readReg .centHours) = false → centBit (t.readReg .centHours) = true) ∧
      t.readReg .day = (s.readReg .day &&& 0xF8) ||| k.day.setWidth 8 ∧
      t.readReg .date = (s.readReg .date &&& 0xC0) ||| k.date.setWidth 8 ∧
      t.readReg .month = (s.readReg .month &&& 0xE0) ||| k.month.setWidth 8 ∧
      t.readReg .year = k.year ∧
      (∀ r ∈ [Register.config1, .trickle, .config2, .sfKey1, .sfKey2, .sfr], t.readReg r = s.readReg r) ∧
      t.baseline = s.baseline ∧ t.port = s.port ∧ t.host = s.host ∧ t.params = s.params)

/-- R48, R266: while HALT is 1 the peripheral takes no step, however many it would take. -/
def Obligations.HaltedClockHoldsEveryRegister : Prop :=
  ∀ s : State, s.runState = .halted → s.ticks.reg = s.reg ∧ s.settle.reg = s.reg

/-! ### The codec -/

/-- R134 to R140. -/
def Obligations.DecodeOperationsReturnTheField : Prop :=
  DecodeRule 0x00 .decSec (digits 0x70) 85 ∧ DecodeRule 0x01 .decMin (digits 0x70) 85 ∧
  DecodeRule 0x02 .decHour (digits 0x30) 45 ∧ DecodeRule 0x04 .decDate (digits 0x30) 45 ∧
  DecodeRule 0x05 .decMon (digits 0x10) 25 ∧ DecodeRule 0x06 .decYr (digits 0xF0) 165 ∧
  DecodeRule 0x03 .decDay (fun b => (b &&& 0x07).toNat) 7

/-- R141 to R147. -/
def Obligations.EncodeOperationsComposeTheByte : Prop :=
  EncodeRule 0x10 .encSec (fun v => packed 0x07 0x80 v.toNat) ∧
  EncodeRule 0x11 .encMin (fun v => packed 0x07 0x00 v.toNat) ∧
  EncodeRule 0x12 .encHour (fun v => packed 0x03 0xC0 v.toNat) ∧
  EncodeRule 0x14 .encDate (fun v => packed 0x03 0x00 v.toNat) ∧
  EncodeRule 0x15 .encMon (fun v => packed 0x01 0x00 v.toNat) ∧
  EncodeRule 0x16 .encYr (fun v => packed 0x0F 0x00 v.toNat) ∧
  EncodeRule 0x13 .encDay (fun v _ => v &&& 0x07)

/-- R132: decode undoes encode for every current byte, on exactly the values whose tens count fits the tens field. -/
def Obligations.DecodeUndoesEncodeExactlyWhereTensFit : Prop :=
  ∀ v : Nat, ∀ c : Byte,
    (decodeField .sec (encodeField .sec v c) = v ↔ v ≤ 79) ∧ (decodeField .min (encodeField .min v c) = v ↔ v ≤ 79) ∧
    (decodeField .hour (encodeField .hour v c) = v ↔ v ≤ 39) ∧ (decodeField .date (encodeField .date v c) = v ↔ v ≤ 39) ∧
    (decodeField .mon (encodeField .mon v c) = v ↔ v ≤ 19) ∧ (decodeField .yr (encodeField .yr v c) = v ↔ v ≤ 159)

/-- R133, R98: the bits under the preserve mask are the current byte's, and the bits in no field are 0. -/
def Obligations.EncodePreservesTheControlBits : Prop :=
  ∀ (f : BcdField) (v : Nat) (c : Byte),
    encodeField f v c &&& f.row.preserveMask = c &&& f.row.preserveMask ∧
    encodeField f v c &&& ~~~(f.row.preserveMask ||| f.row.decTensMask ||| f.row.unitsMask) = 0 ∧
    (f.row.discipline = .readModifyWrite → f.row.preserveMask = ~~~(f.row.decTensMask ||| f.row.unitsMask)) ∧
    (encodeField f v c &&& f.row.unitsMask).toNat ≤ 9

/-- R99, for every table of codes that is an injection: the codes cover the field, so unpacking is total, and packing and
unpacking lose no day. -/
def Obligations.DayCodesCoverTheField : Prop :=
  ∀ c : DayCodes, c.wf →
    (∀ d : DayOfWeek, c.dayOf (BitVec.ofNat 8 (decodeDay (encodeDay (c.code d)))) = some d) ∧
    (∀ b : Byte, ∃ d : DayOfWeek, c.dayOf (BitVec.ofNat 8 (decodeDay b)) = some d ∧ c.code d = b &&& 0x07)

/-! ### The century tracker -/

/-- R161. -/
def Obligations.DecYearAddsTheBaseline : Prop :=
  (∀ (m : AddressMap) (reserved b : Byte), decode m (word 0x20 reserved b) = .ok (.decYear b (reserved.getLsbD 0))) ∧
  ∀ (s : State) (b : Byte) (c : Bool),
    exec (.decYear b c) s =
      .next (shows s (.ok (BitVec.ofNat 16 (s.baseline.toNat + (if c then 100 else 0) + digits 0xF0 b)) 0 false))

/-- R162. -/
def Obligations.PrepYearAdoptsTheCentury : Prop :=
  ∀ (m : AddressMap) (s : State) (y : Year),
    decode m (wordYear 0x21 y) = .ok (.prepYear y) ∧
    (y.toNat / 100 * 100 ≠ s.baseline.toNat →
      exec (.prepYear y) s =
        .next (shows { s with baseline := BitVec.ofNat 16 (y.toNat / 100 * 100) }
          (.ok (BitVec.ofNat 16 (y.toNat / 100 * 100)) (BitVec.ofNat 8 (y.toNat % 100)) true))) ∧
    (y.toNat / 100 * 100 = s.baseline.toNat →
      exec (.prepYear y) s = .next (shows s (.ok s.baseline (BitVec.ofNat 8 (y.toNat % 100)) false)))

/-- R20, R162, R237: `PREPYEAR` and `SET.YEAR` leave the century of their operand in `baseline`, whether or not a transaction
fails; no other operation changes `baseline`. -/
def Obligations.OnlyPrepYearAndSetYearWriteBaseline : Prop :=
  ∀ (i : Instr) (s t : State), exec i s = .next t →
    t.baseline.toNat = match i with
      | .prepYear y => y.toNat / 100 * 100
      | .setYear y => y.toNat / 100 * 100
      | _ => s.baseline.toNat

/-! ### Run control -/

/-- R170. -/
def Obligations.StartClearsHaltByReadModifyWrite : Prop :=
  (∀ (m : AddressMap) (arg : Year), decode m (wordYear 0x50 arg) = .ok .start) ∧ ModifyRule .start .seconds (fun t => t &&& 0x7F)

/-- R171. -/
def Obligations.StopSetsHaltByReadModifyWrite : Prop :=
  (∀ (m : AddressMap) (arg : Year), decode m (wordYear 0x51 arg) = .ok .stop) ∧ ModifyRule .stop .seconds (fun t => t ||| 0x80)

/-- R25: after a completed `START` the clock is Running, after a completed `STOP` it is Halted. -/
def Obligations.StartRunsAndStopHalts : Prop :=
  ∀ s : State, answersOk 3 s.env = true →
    (∃ t, exec .start s = .next t ∧ t.runState = .running) ∧ (∃ t, exec .stop s = .next t ∧ t.runState = .halted)

/-- R172 (a): a second `START`, or a second `STOP`, leaves `REG` as the first left it, given no step of the peripheral. -/
def Obligations.StartAndStopAreIdempotent : Prop :=
  ∀ s : State, quiet 6 s.env = true → ∀ i ∈ [Instr.start, Instr.stop],
    ∃ t u, exec i s = .next t ∧ exec i t = .next u ∧ ∀ a, u.reg.read a = t.reg.read a

/-- R172 (b): `START` and then `GET.SEC` gives the seconds value that stood there before, given no step of the
peripheral. -/
def Obligations.StartKeepsTheSeconds : Prop :=
  ∀ s : State, quiet 5 s.env = true →
    ∃ t u, exec .start s = .next t ∧ exec .getSec t = .next u ∧
      ∃ calls, u.port = t.port ++ calls ++ [.result (.ok (BitVec.ofNat 16 (digits 0x70 (s.readReg .seconds))) 0 false)]

/-! ### Get operations -/

/-- R181 to R187. -/
def Obligations.GetOperationsDecodeOneRegister : Prop :=
  GetRule 0x30 .getSec .seconds (digits 0x70) ∧ GetRule 0x31 .getMin .minutes (digits 0x70) ∧
  GetRule 0x32 .getHour .centHours (digits 0x30) ∧ GetRule 0x33 .getDay .day (fun b => (b &&& 0x07).toNat) ∧
  GetRule 0x34 .getDate .date (digits 0x30) ∧ GetRule 0x35 .getMon .month (digits 0x10) ∧
  GetRule 0x36 .getYr .year (digits 0xF0)

/-- R188: Year first, CentHours second, each at its own moment. -/
def Obligations.GetYearReadsYearThenCentHours : Prop :=
  (∀ (m : AddressMap) (arg : Year), decode m (wordYear 0x37 arg) = .ok .getYear) ∧
  ∀ s : State,
    (answersOk 4 s.env = true →
      let u := s.settle.settle
      let v := u.settle.settle
      Completes .getYear s (readCalls s .year (u.readReg .year) ++ readCalls s .centHours (v.readReg .centHours))
        (.ok (BitVec.ofNat 16 (s.baseline.toNat + (if centBit (v.readReg .centHours) then 100 else 0) +
          digits 0xF0 (u.readReg .year))) 0 false)
        s.baseline v.env v.reg.read) ∧
    (answersOk 4 s.env = false → AbortsUnwritten .getYear s s.baseline) ∧
    (answersOk 2 s.env = false →
      ∃ t calls, exec .getYear s = .next t ∧ t.port = s.port ++ calls ++ [.result .transportError] ∧ calls.length ≤ 2)

/-! ### Set operations -/

/-- R200, R202: the two sets that share a register with a control bit. -/
def Obligations.SetSecAndSetHourPreserveControlBits : Prop :=
  (∀ (m : AddressMap) (reserved v : Byte), decode m (word 0x40 reserved v) = .ok (.setSec v) ∧
    ModifyRule (.setSec v) .seconds (packed 0x07 0x80 v.toNat)) ∧
  (∀ (m : AddressMap) (reserved v : Byte), decode m (word 0x42 reserved v) = .ok (.setHour v) ∧
    ModifyRule (.setHour v) .centHours (packed 0x03 0xC0 v.toNat))

/-- R201, R203 to R206: the five direct writes. -/
def Obligations.DirectSetsWriteOneByte : Prop :=
  ∀ (m : AddressMap) (reserved v : Byte),
    (decode m (word 0x41 reserved v) = .ok (.setMin v) ∧ WriteRule (.setMin v) .minutes (packed 0x07 0 v.toNat 0)) ∧
    (decode m (word 0x43 reserved v) = .ok (.setDay v) ∧ WriteRule (.setDay v) .day (v &&& 0x07)) ∧
    (decode m (word 0x44 reserved v) = .ok (.setDate v) ∧ WriteRule (.setDate v) .date (packed 0x03 0 v.toNat 0)) ∧
    (decode m (word 0x45 reserved v) = .ok (.setMon v) ∧ WriteRule (.setMon v) .month (packed 0x01 0 v.toNat 0)) ∧
    (decode m (word 0x46 reserved v) = .ok (.setYr v) ∧ WriteRule (.setYr v) .year (packed 0x0F 0 v.toNat 0))

/-- R208: both cases; a failure leaves the new `baseline`. -/
def Obligations.SetYearConsultsTheTrackerThenWrites : Prop :=
  ∀ (m : AddressMap) (s : State) (y : Year),
    let century := BitVec.ofNat 16 (y.toNat / 100 * 100)
    let short := BitVec.ofNat 8 (y.toNat % 100)
    let yearByte := packed 0x0F 0 (y.toNat % 100) 0
    decode m (wordYear 0x47 y) = .ok (.setYear y) ∧
    (y.toNat / 100 * 100 = s.baseline.toNat →
      (answersOk 1 s.env = true →
        Completes (.setYear y) s (writeCall s .year yearByte) (.ok s.baseline short false) s.baseline s.settle.env
          (withReg s.settle .year yearByte)) ∧
      (answersOk 1 s.env = false → Aborts (.setYear y) s s.baseline)) ∧
    (y.toNat / 100 * 100 ≠ s.baseline.toNat →
      (answersOk 4 s.env = true →
        let u := s.settle.settle
        let cleared := u.readReg .centHours &&& 0x7F
        let v := (u.settle.writeReg .centHours cleared).settle
        Completes (.setYear y) s
          (readCalls s .centHours (u.readReg .centHours) ++ writeCall s .centHours cleared ++ writeCall s .year yearByte)
          (.ok century short true) century v.env (withReg v .year yearByte)) ∧
      (answersOk 2 s.env = false → AbortsUnwritten (.setYear y) s century) ∧
      (answersOk 4 s.env = false → Aborts (.setYear y) s century))

/-- R207, R203: after a set with a value in the round-trip range, the matching get returns that value, given no step of the
peripheral. -/
def Obligations.SetThenGetReturnsTheValue : Prop :=
  ∀ (s : State) (v : Byte), quiet 5 s.env = true →
    ∀ p ∈ [(Instr.setSec v, Instr.getSec, 79), (.setMin v, .getMin, 79), (.setHour v, .getHour, 39),
      (.setDay v, .getDay, 7), (.setDate v, .getDate, 39), (.setMon v, .getMon, 19), (.setYr v, .getYr, 159)],
      v.toNat ≤ p.2.2 →
      ∃ t u calls, exec p.1 s = .next t ∧ exec p.2.1 t = .next u ∧
        u.port = t.port ++ calls ++ [.result (.ok (v.setWidth 16) 0 false)]

/-- R163, R208, R276: given no step of the peripheral, `GET.YEAR` after a completed `SET.YEAR` returns the year set,
except that a set into the century `baseline` itself with CENT 1 does not clear CENT, and then it returns that year
plus 100. -/
def Obligations.GetYearAfterSetYear : Prop :=
  ∀ (s : State) (y : Year), quiet 8 s.env = true →
    ∃ t u calls, exec (.setYear y) s = .next t ∧ exec .getYear t = .next u ∧
      u.port = t.port ++ calls ++ [.result (.ok
        (if y.toNat / 100 * 100 = s.baseline.toNat ∧ centBit (s.readReg .centHours) = true then y + 100 else y) 0 false)]

/-- R160, R46: a completed `SET.YEAR` that changes the century leaves the pair (`baseline`, CENT) counting from that century,
given no step of the peripheral. -/
def Obligations.CenturyChangeMakesThePairConsistent : Prop :=
  ∀ (s : State) (y : Year), quiet 4 s.env = true → y.toNat / 100 * 100 ≠ s.baseline.toNat →
    ∃ t, exec (.setYear y) s = .next t ∧ t.consistentWith (y.toNat / 100 * 100) ∧ t.displayedYear = y

/-- R277, R237: a `SET.YEAR` that changed the century and failed has already changed `baseline`; issued again, it writes only
Year and does not clear CENT. -/
def Obligations.RetriedSetYearSkipsTheOverflowClear : Prop :=
  ∀ (s : State) (y : Year), y.toNat / 100 * 100 ≠ s.baseline.toNat → answersOk 4 s.env = false →
    ∃ t, exec (.setYear y) s = .next t ∧ t.port.getLast? = some (.result .transportError) ∧
      (answersOk 1 t.env = true →
        ∃ u, exec (.setYear y) t = .next u ∧
          u.port = t.port ++ writeCall t .year (packed 0x0F 0 (y.toNat % 100) 0) ++
            [.result (.ok (BitVec.ofNat 16 (y.toNat / 100 * 100)) (BitVec.ofNat 8 (y.toNat % 100)) false)] ∧
          u.readReg .centHours = t.settle.readReg .centHours)

/-- R272: after a reset `GET.YEAR` counts from `BASELINE_RESET`, whatever century was last set. -/
def Obligations.ResetForgetsTheCentury : Prop :=
  ∀ (s : State) (rest : List HostMove), s.host = .reset :: .command 0x370000 :: rest → s.env = [] →
    ∃ t u calls, step s = .next t ∧ step t = .next u ∧
      u.port = s.port ++ calls ++ [.result (.ok (BitVec.ofNat 16 (s.params.baselineReset.toNat +
        (if centBit (s.readReg .centHours) then 100 else 0) + digits 0xF0 (s.readReg .year))) 0 false)]

/-! ### Register access -/

/-- R220, for every register of a map with distinct addresses, and every address outside it. -/
def Obligations.RdbReturnsTheByte : Prop :=
  (∀ (m : AddressMap) (r : Register) (reserved : Byte),
    decode m (word 0x60 reserved (m.addr r)) = .ok (.rdb (m.addr r))) ∧
  (∀ (r : Register) (s : State), s.params.addresses.wf →
    let i := Instr.rdb (s.params.addresses.addr r)
    (answersOk 2 s.env = true →
      Completes i s (readCalls s r (s.settle.settle.readReg r))
        (.ok ((s.settle.settle.readReg r).setWidth 16) 0 false)
        s.baseline s.settle.settle.env s.settle.settle.reg.read) ∧
    (answersOk 2 s.env = false → AbortsUnwritten i s s.baseline)) ∧
  (∀ (a : Byte) (s : State), (∀ r, s.params.addresses.addr r ≠ a) → exec (.rdb a) s = .next (shows s .illegalCommand))

/-- R221, R73, for every register of a map with distinct addresses, and every address outside it. For Config1, Trickle,
Config2 and the special-function registers the clause that no other register changes is the model's reading (log entry 13,
DEDUCED from U9): R221 says that such a write has effects on the peripheral that are not described. -/
def Obligations.WrbWritesTheByteAsGiven : Prop :=
  (∀ (m : AddressMap) (r : Register) (v : Byte), decode m (word 0x61 v (m.addr r)) = .ok (.wrb (m.addr r) v)) ∧
  (∀ (r : Register) (v : Byte), WrbRule r v) ∧
  (∀ (a v : Byte) (s : State), (∀ r, s.params.addresses.addr r ≠ a) → exec (.wrb a v) s = .next (shows s .illegalCommand))

/-- R116, R207: a direct-write set writes what `ENC.f` with a zero current byte followed by `WRB` would. -/
def Obligations.DirectSetIsEncodeThenWrb : Prop :=
  ∀ (s : State) (v : Byte), s.params.addresses.wf →
    ∀ p ∈ [(Instr.setMin v, Instr.encMin v 0, Register.minutes), (.setDay v, .encDay v 0, .day),
      (.setDate v, .encDate v 0, .date), (.setMon v, .encMon v 0, .month), (.setYr v, .encYr v 0, .year)],
      ∃ b : Byte, exec p.2.1 s = .next (shows s (.ok (b.setWidth 16) 0 false)) ∧
        exec p.1 s = exec (.wrb (s.params.addresses.addr p.2.2) b) s

/-- R116, R180: a get computes what `RDB` followed by the field's decode of the byte returned would. -/
def Obligations.GetIsRdbThenDecode : Prop :=
  ∀ s : State, s.params.addresses.wf → answersOk 2 s.env = true →
    ∀ p ∈ [(Instr.getSec, Instr.decSec, Register.seconds), (.getMin, .decMin, .minutes), (.getHour, .decHour, .centHours),
      (.getDay, .decDay, .day), (.getDate, .decDate, .date), (.getMon, .decMon, .month), (.getYr, .decYr, .year)],
      ∃ t u calls, ∃ byte : Byte, ∃ n : BitVec 16,
        exec (.rdb (s.params.addresses.addr p.2.2)) s = .next t ∧
        t.port = s.port ++ calls ++ [.result (.ok (byte.setWidth 16) 0 false)] ∧
        exec (p.2.1 byte) s = .next (shows s (.ok n 0 false)) ∧
        exec p.1 s = .next u ∧ u.port = s.port ++ calls ++ [.result (.ok n 0 false)] ∧ u.reg = t.reg

/-! ### Transactions and outcomes -/

/-- R67 (d), R66, R73: a `MemRead` returns the value of the latest `MemWrite`, both change nothing else, given no step of the
peripheral between. For the configuration and special-function registers that a write changes no other is log entry 13. -/
def Obligations.ReadReturnsTheLatestWrite : Prop :=
  ∀ (s : State) (r q : Register) (v : Byte), quiet 3 s.env = true →
    ∃ t u, memWrite r v s = .done t ∧ memRead q t = .done u ∧ u.latch = (if q = r then v else s.readReg q) ∧ u.reg = t.reg ∧
      (∀ a, t.reg.read a = if a = r.key then v else s.reg.read a)

/-- R9, R233, R235, R236, R280: every command of the block ends in exactly one bundle after its last call; it is `OK` exactly
when no call it makes fails, and then the transactions are those of R280's table; otherwise the first call that fails is
the last one made; `IllegalCommand` is for an address outside the map alone. -/
def Obligations.EveryCommandEndsInItsOutcome : Prop :=
  ∀ (i : Instr) (s : State), ∃ t calls b,
    exec i s = .next t ∧ t.port = s.port ++ calls ++ [.result b] ∧ bundlesOf calls = [] ∧
    (i.wf s.params.addresses = false → b = .illegalCommand ∧ calls = [] ∧ t.reg = s.reg ∧ t.baseline = s.baseline) ∧
    (i.wf s.params.addresses = true → answersOk (callCount i s) s.env = true →
      b.status = 0 ∧ calls.all answeredOk = true ∧ calls.length = callCount i s ∧
      calls.countP isReadCall = (transactionCount i s).1 ∧ calls.countP isMemWrite = (transactionCount i s).2 ∧
      calls.countP isWriteCall = (transactionCount i s).1 + (transactionCount i s).2) ∧
    (i.wf s.params.addresses = true → answersOk (callCount i s) s.env = false →
      b = .transportError ∧ ∃ made failed, calls = made ++ [failed] ∧ made.all answeredOk = true ∧
        answeredOk failed = false ∧ calls.length ≤ callCount i s)

/-- R64, R71 to R74: every call carries the device address; a `write` carries one register address with the bus held, or one
register address and one data byte with the bus released. -/
def Obligations.EveryCallIsASingleByteTransaction : Prop :=
  ∀ (i : Instr) (s t : State), exec i s = .next t →
    ∃ new, t.port = s.port ++ new ∧ ∀ e ∈ new,
      (∃ r ok, e = .write s.params.deviceAddr [s.params.addresses.addr r] true ok) ∨
      (∃ r v ok, e = .write s.params.deviceAddr [s.params.addresses.addr r, v] false ok) ∨
      (∃ reply, e = .read s.params.deviceAddr reply) ∨ (∃ b, e = .result b)

/-- R39, R73: given no step of the peripheral and no failure, an operation changes no byte of `REG` but those of the registers
it writes. For a `WRB` to Config1, Trickle, Config2 or a special-function register that no other register changes is the
model's reading (log entry 13, DEDUCED from U9): R221 says that such a write has effects on the peripheral that are not
described. -/
def Obligations.OperationsWriteOnlyTheirRegisters : Prop :=
  ∀ (i : Instr) (s : State), quiet 4 s.env = true →
    ∃ t, exec i s = .next t ∧ ∀ a,
      (∀ r : Register, mayWrite s i r = true → r.key ≠ a) → t.reg.read a = s.reg.read a

/-- R38: given no step of the peripheral and no failure, the writes of time fields leave the control bits beside them. -/
def Obligations.TimeFieldWritesPreserveControlBits : Prop :=
  ∀ s : State, quiet 4 s.env = true →
    (∀ v, ∃ t, exec (.setSec v) s = .next t ∧ t.readReg .seconds &&& 0x80 = s.readReg .seconds &&& 0x80) ∧
    (∃ t, exec .start s = .next t ∧ t.readReg .seconds &&& 0x7F = s.readReg .seconds &&& 0x7F) ∧
    (∃ t, exec .stop s = .next t ∧ t.readReg .seconds &&& 0x7F = s.readReg .seconds &&& 0x7F) ∧
    (∀ v, ∃ t, exec (.setHour v) s = .next t ∧ t.readReg .centHours &&& 0xC0 = s.readReg .centHours &&& 0xC0) ∧
    (∀ y, ∃ t, exec (.setYear y) s = .next t ∧ t.readReg .centHours &&& 0x7F = s.readReg .centHours &&& 0x7F)

/-- R47: an operation that ends `OK` leaves the bus released, if it was released before it. -/
def Obligations.CompletedOperationsReleaseTheBus : Prop :=
  ∀ (i : Instr) (s t : State), exec i s = .next t → s.busHeld = false →
    (∃ res aux flag, t.port.getLast? = some (.result (.ok res aux flag))) → t.busHeld = false

/-- R203, R184: for every table of codes that is an injection, `SET.DAY` of a day's code and then `GET.DAY` gives a result
that names that day, given no step of the peripheral. -/
def Obligations.SetDayThenGetDayNamesTheDay : Prop :=
  ∀ (s : State) (d : DayOfWeek), s.params.dayCodes.wf → quiet 3 s.env = true →
    ∃ t u calls b, exec (.setDay (s.params.dayCodes.code d)) s = .next t ∧ exec .getDay t = .next u ∧
      u.port = t.port ++ calls ++ [.result b] ∧ bundlesOf calls = [] ∧ u.namedDay b = some d

/-! ### A reset inside a command -/

/-- R262, U7: a command that a reset cuts short leaves on the port the calls that were answered, exactly those it makes when
nothing disturbs it, then the call in flight, if there is one, and no bundle; `baseline` is `BASELINE_RESET` (R260). That a
call in flight uses up no answer and the moments a reset can take are the model's choice (log entry 20). -/
def Obligations.ResetDuringACommandAbandonsIt : Prop :=
  ∀ (s : State) (w : Command) (k : Nat) (inFlight : Bool) (rest : List HostMove) (i : Instr),
    s.host = .cutShort w k inFlight :: rest → decode s.params.addresses w = .ok i →
    let s0 := s.ticks.setHost rest
    ∃ t u calls b, step s = .next t ∧ exec i s0 = .next u ∧
      u.port = s.port ++ calls ++ [.result b] ∧ bundlesOf calls = [] ∧
      t.baseline = s.params.baselineReset ∧ t.params = s.params ∧ t.host = rest ∧
      (answersOk (min k (callCount i s0)) s0.env = true →
        t.port = s.port ++ calls.take k ++ (if inFlight then ((calls.drop k).take 1).map withoutAnswer else []))

/-- A reset placed after the call of a command that failed finds the block idle: the command has ended in `TransportError`
(R236), and the reset writes `baseline` and nothing else (R260). The placing is the model's choice (log entry 20). -/
def Obligations.ResetAfterAFailedCallFindsTheBlockIdle : Prop :=
  ∀ (s : State) (w : Command) (k : Nat) (inFlight : Bool) (rest : List HostMove) (i : Instr),
    s.host = .cutShort w k inFlight :: rest → decode s.params.addresses w = .ok i →
    let s0 := s.ticks.setHost rest
    answersOk (min k (callCount i s0)) s0.env = false →
    ∃ u, exec i s0 = .next u ∧ u.port.getLast? = some (.result .transportError) ∧
      step s = .next { u with baseline := s.params.baselineReset }

/-- R262, U7: the transactions completed before the reset stand: given no step of the peripheral and no failure, every
register but that of a transaction in flight holds what the writes among the answered calls left in it. -/
def Obligations.CompletedTransactionsStandAfterAReset : Prop :=
  ∀ (s : State) (w : Command) (k : Nat) (inFlight : Bool) (rest : List HostMove) (i : Instr),
    s.host = .cutShort w k inFlight :: rest → decode s.params.addresses w = .ok i → s.params.addresses.wf →
    quiet (k + 1) s.env = true →
    ∃ t u calls b, step s = .next t ∧ exec i (s.setHost rest) = .next u ∧
      u.port = s.port ++ calls ++ [.result b] ∧ bundlesOf calls = [] ∧
      ∀ q : Register, ¬ inTransaction s q calls k inFlight → t.readReg q = lastWritten s q (calls.take k)

/-- R262 beside R208: a `SET.YEAR` into another century that is reset after its CentHours write has cleared CENT, has not
written Year, shows no bundle, and leaves `baseline` at `BASELINE_RESET`, the century it had adopted forgotten. -/
def Obligations.ResetInsideSetYearKeepsItsOverflowClear : Prop :=
  ∀ (s : State) (y : Year) (rest : List HostMove),
    s.host = .cutShort (wordYear 0x47 y) 3 false :: rest → y.toNat / 100 * 100 ≠ s.baseline.toNat →
    answersOk 3 s.env = true →
    let u := s.ticks.settle.settle
    let cleared := u.readReg .centHours &&& 0x7F
    ∃ t, step s = .next t ∧
      t.port = s.port ++ readCalls s .centHours (u.readReg .centHours) ++ writeCall s .centHours cleared ∧
      t.baseline = s.params.baselineReset ∧ t.busHeld = false ∧ t.host = rest ∧
      (∀ a, t.reg.read a = withReg u.settle .centHours cleared a)
end

