-- ==== Sys2Proof/Laws/DayCodes.lean ====
section
/-! SUPPORT. In an injective table of day codes a code names the one day that has it. -/

namespace Sys2Proof.Machine

theorem DayOfWeek.mem_all (d : DayOfWeek) : d ∈ DayOfWeek.all := by
  cases d <;> decide

theorem DayCodes.wf_standard : DayCodes.standard.wf := by decide

theorem DayCodes.code_injective {c : DayCodes} (h : c.wf) {d e : DayOfWeek} (he : c.code d = c.code e) : d = e :=
  List.inj_on_of_nodup_map h d.mem_all e.mem_all he

theorem DayCodes.code_of_dayOf {c : DayCodes} {b : Byte} {d : DayOfWeek} (h : c.dayOf b = some d) : c.code d = b := by
  have := List.find?_some h
  simpa using this

theorem DayCodes.dayOf_code {c : DayCodes} (h : c.wf) (d : DayOfWeek) : c.dayOf (c.code d) = some d := by
  have hs : (c.dayOf (c.code d)).isSome = true := by
    simp only [DayCodes.dayOf, List.find?_isSome, beq_iff_eq]
    exact ⟨d, d.mem_all, rfl⟩
  obtain ⟨e, he⟩ := Option.isSome_iff_exists.1 hs
  rw [he, DayCodes.code_injective h (DayCodes.code_of_dayOf he)]

/-- A code lies in the 3-bit field. -/
theorem DayCodes.code_and_mask (c : DayCodes) (d : DayOfWeek) : c.code d &&& 0x07 = c.code d := by
  have key : ∀ x : BitVec 3, (x.setWidth 8 : Byte) &&& 0x07 = x.setWidth 8 := by decide
  cases d <;> exact key _

end Sys2Proof.Machine
end

