-- ==== Sys2Proof/Laws/Decode.lean ====
section
/-! SUPPORT. The fields of a composed command word are the parts it was composed of, and a word is its fields. -/

namespace Sys2Proof

theorem word_toNat (op high low : Byte) :
    (word op high low).toNat = op.toNat * 65536 + high.toNat * 256 + low.toNat := by
  simp only [word, BitVec.toNat_ofNat]
  omega

theorem wordYear_toNat (op : Byte) (y : Year) : (wordYear op y).toNat = op.toNat * 65536 + y.toNat := by
  simp only [wordYear, BitVec.toNat_ofNat]
  omega

theorem opField_toNat (w : Command) : (opField w).toNat = w.toNat / 65536 := by
  simp only [opField, BitVec.extractLsb'_toNat, Nat.shiftRight_eq_div_pow]
  omega

theorem argHigh_toNat (w : Command) : (argHigh w).toNat = w.toNat / 256 % 256 := by
  simp only [argHigh, BitVec.extractLsb'_toNat, Nat.shiftRight_eq_div_pow]

theorem argLow_toNat (w : Command) : (argLow w).toNat = w.toNat % 256 := by
  simp only [argLow, BitVec.extractLsb'_toNat, Nat.shiftRight_eq_div_pow]
  omega

theorem argYear_toNat (w : Command) : (argYear w).toNat = w.toNat % 65536 := by
  simp only [argYear, BitVec.extractLsb'_toNat, Nat.shiftRight_eq_div_pow]
  omega

theorem argBit8_eq (w : Command) : argBit8 w = (argHigh w).getLsbD 0 := by
  simp [argBit8, argHigh]

@[simp] theorem opField_word (op high low : Byte) : opField (word op high low) = op := by
  apply BitVec.eq_of_toNat_eq
  rw [opField_toNat, word_toNat]
  omega

@[simp] theorem argHigh_word (op high low : Byte) : argHigh (word op high low) = high := by
  apply BitVec.eq_of_toNat_eq
  rw [argHigh_toNat, word_toNat]
  omega

@[simp] theorem argLow_word (op high low : Byte) : argLow (word op high low) = low := by
  apply BitVec.eq_of_toNat_eq
  rw [argLow_toNat, word_toNat]
  omega

@[simp] theorem argBit8_word (op high low : Byte) : argBit8 (word op high low) = high.getLsbD 0 := by
  rw [argBit8_eq, argHigh_word]

@[simp] theorem opField_wordYear (op : Byte) (y : Year) : opField (wordYear op y) = op := by
  apply BitVec.eq_of_toNat_eq
  rw [opField_toNat, wordYear_toNat]
  omega

@[simp] theorem argYear_wordYear (op : Byte) (y : Year) : argYear (wordYear op y) = y := by
  apply BitVec.eq_of_toNat_eq
  rw [argYear_toNat, wordYear_toNat]
  omega

/-- A command word is its three bytes. -/
theorem word_of_fields (w : Command) : word (opField w) (argHigh w) (argLow w) = w := by
  apply BitVec.eq_of_toNat_eq
  rw [word_toNat, opField_toNat, argHigh_toNat, argLow_toNat]
  omega

/-- A command word is its `op` and its 16-bit `arg`. -/
theorem wordYear_of_fields (w : Command) : wordYear (opField w) (argYear w) = w := by
  apply BitVec.eq_of_toNat_eq
  rw [wordYear_toNat, opField_toNat, argYear_toNat]
  omega

end Sys2Proof
end

