-- ==== Sys2Proof/Laws/Memory.lean ====
section
/-! SUPPORT. Registers have distinct keys, and an address map answers its own addresses; a read after a write; every write keeps the canonical form. -/

namespace Sys2Proof

theorem Register.key_injective {r q : Register} (h : r.key = q.key) : r = q := by
  revert h; cases r <;> cases q <;> decide

theorem Register.mem_all (r : Register) : r ∈ Register.all := by
  cases r <;> decide

theorem AddressMap.wf_standard : AddressMap.standard.wf := by decide

theorem AddressMap.addr_of_ofAddr {m : AddressMap} {a : Byte} {r : Register} (h : m.ofAddr a = some r) : m.addr r = a := by
  have := List.find?_some h
  simpa using this

/-- An address names a register exactly when some register has it. -/
theorem AddressMap.ofAddr_isSome {m : AddressMap} {a : Byte} : (m.ofAddr a).isSome = true ↔ ∃ r, m.addr r = a := by
  simp only [AddressMap.ofAddr, List.find?_isSome, beq_iff_eq]
  exact ⟨fun ⟨r, _, h⟩ => ⟨r, h⟩, fun ⟨r, h⟩ => ⟨r, r.mem_all, h⟩⟩

theorem AddressMap.addr_injective {m : AddressMap} (h : m.wf) {r q : Register} (e : m.addr r = m.addr q) : r = q :=
  List.inj_on_of_nodup_map h r.mem_all q.mem_all e

/-- In a map with distinct addresses a register's address names that register. -/
theorem AddressMap.ofAddr_addr {m : AddressMap} (h : m.wf) (r : Register) : m.ofAddr (m.addr r) = some r := by
  obtain ⟨q, hq⟩ := Option.isSome_iff_exists.1 (AddressMap.ofAddr_isSome.2 ⟨r, rfl⟩ : (m.ofAddr (m.addr r)).isSome = true)
  rw [hq, AddressMap.addr_injective h (AddressMap.addr_of_ofAddr hq)]

end Sys2Proof

namespace Sys2Proof.Machine

theorem isRegisterKey_key (r : Register) : isRegisterKey r.key = true := by
  cases r <;> decide

theorem Memory.read_erase_other {m : Memory} {a c : Nat} (h : c ≠ a) : (Memory.erase m a).read c = m.read c := by
  induction m with
  | nil => rfl
  | cons e m ih =>
    obtain ⟨b, v⟩ := e
    rcases eq_or_ne b a with rfl | hb
    · simpa [Memory.erase, Memory.read, Ne.symm h] using ih
    · simp only [Memory.erase] at ih
      simp [Memory.erase, Memory.read, hb, ih]

theorem Memory.read_erase_same (m : Memory) (a : Nat) : (Memory.erase m a).read a = Config.unlistedByte := by
  induction m with
  | nil => rfl
  | cons e m ih =>
    obtain ⟨b, v⟩ := e
    rcases eq_or_ne b a with rfl | hb
    · simpa [Memory.erase] using ih
    · simp only [Memory.erase] at ih
      simp [Memory.erase, Memory.read, hb, ih]

theorem Memory.read_insert_other {m : Memory} {a c : Nat} {v : Byte} (h : c ≠ a) :
    (Memory.insert m a v).read c = m.read c := by
  induction m with
  | nil => simp [Memory.insert, Memory.read, Ne.symm h]
  | cons e m ih =>
    obtain ⟨b, w⟩ := e
    by_cases hb : a < b <;> simp [Memory.insert, Memory.read, hb, ih, Ne.symm h]

theorem Memory.read_insert_same {m : Memory} {a : Nat} {v : Byte} (h : ∀ c ∈ m, c.1 ≠ a) :
    (Memory.insert m a v).read a = v := by
  induction m with
  | nil => simp [Memory.insert, Memory.read]
  | cons e m ih =>
    obtain ⟨b, w⟩ := e
    have hb : b ≠ a := h (b, w) (by simp)
    have ih := ih (fun c hc => h c (by simp [hc]))
    by_cases hab : a < b <;> simp [Memory.insert, Memory.read, hab, hb, ih]

theorem Memory.erase_avoids (m : Memory) (a : Nat) : ∀ c ∈ Memory.erase m a, c.1 ≠ a := by
  intro c hc
  simpa using (List.mem_filter.1 hc).2

@[simp] theorem Memory.read_write_same (m : Memory) (a : Nat) (v : Byte) : (Memory.write m a v).read a = v := by
  unfold Memory.write
  split
  · next h => rw [Memory.read_erase_same, h]
  · exact Memory.read_insert_same (Memory.erase_avoids m a)

theorem Memory.read_write_other {m : Memory} {a c : Nat} {v : Byte} (h : c ≠ a) :
    (Memory.write m a v).read c = m.read c := by
  unfold Memory.write
  split
  · exact Memory.read_erase_other h
  · rw [Memory.read_insert_other h, Memory.read_erase_other h]

theorem Memory.wf_erase {m : Memory} (h : m.wf) (a : Nat) : (Memory.erase m a).wf :=
  ⟨h.1.filter _, fun c hc => h.2 c (List.mem_filter.1 hc).1⟩

theorem Memory.mem_insert {m : Memory} {a : Nat} {v : Byte} {c : Host.Cell} (h : c ∈ Memory.insert m a v) :
    c = (a, v) ∨ c ∈ m := by
  induction m with
  | nil => simpa [Memory.insert] using h
  | cons e m ih =>
    obtain ⟨b, w⟩ := e
    by_cases hab : a < b
    · simpa [Memory.insert, hab] using h
    · simp only [Memory.insert, hab, if_false, List.mem_cons] at h
      rcases h with h | h
      · simp [h]
      · rcases ih h with h | h <;> simp [h]

theorem Memory.wf_insert {m : Memory} {a : Nat} {v : Byte} (h : m.wf) (ha : isRegisterKey a = true)
    (hv : v ≠ Config.unlistedByte) (hm : ∀ c ∈ m, c.1 ≠ a) : (Memory.insert m a v).wf := by
  refine ⟨?_, fun c hc => ?_⟩
  · have hs := h.1
    clear h
    induction m with
    | nil => simp [Memory.insert]
    | cons e m ih =>
      obtain ⟨b, w⟩ := e
      rw [List.pairwise_cons] at hs
      by_cases hab : a < b
      · simp only [Memory.insert, hab, if_true, List.pairwise_cons]
        refine ⟨fun c hc => ?_, hs.1, hs.2⟩
        rcases List.mem_cons.1 hc with rfl | hc
        · exact hab
        · exact lt_trans hab (hs.1 c hc)
      · have hb : b ≠ a := hm (b, w) (by simp)
        simp only [Memory.insert, hab, if_false, List.pairwise_cons]
        refine ⟨fun c hc => ?_, ih (fun c hc => hm c (by simp [hc])) hs.2⟩
        rcases Memory.mem_insert hc with rfl | hc
        · show b < a
          omega
        · exact hs.1 c hc
  · rcases Memory.mem_insert hc with rfl | hc
    · exact ⟨hv, ha⟩
    · exact h.2 c hc

/-- Every write to a register keeps the canonical form. -/
theorem Memory.wf_write {m : Memory} (h : m.wf) {a : Nat} (ha : isRegisterKey a = true) (v : Byte) :
    (Memory.write m a v).wf := by
  unfold Memory.write
  split
  · exact Memory.wf_erase h a
  · next hv => exact Memory.wf_insert (Memory.wf_erase h a) ha hv (Memory.erase_avoids m a)

end Sys2Proof.Machine
end

