-- ==== Sys2Proof/Laws/State.lean ====
section
/-! SUPPORT. One lemma per field per update of the state. -/

namespace Sys2Proof.Machine

@[simp] theorem State.setBaseline_baseline (s : State) (v : Year) : (s.setBaseline v).baseline = v := rfl
@[simp] theorem State.setBaseline_reg (s : State) (v : Year) : (s.setBaseline v).reg = s.reg := rfl
@[simp] theorem State.setBaseline_latch (s : State) (v : Year) : (s.setBaseline v).latch = s.latch := rfl
@[simp] theorem State.setBaseline_busHeld (s : State) (v : Year) : (s.setBaseline v).busHeld = s.busHeld := rfl
@[simp] theorem State.setBaseline_params (s : State) (v : Year) : (s.setBaseline v).params = s.params := rfl
@[simp] theorem State.setBaseline_host (s : State) (v : Year) : (s.setBaseline v).host = s.host := rfl
@[simp] theorem State.setBaseline_env (s : State) (v : Year) : (s.setBaseline v).env = s.env := rfl
@[simp] theorem State.setBaseline_port (s : State) (v : Year) : (s.setBaseline v).port = s.port := rfl
@[simp] theorem State.setBaseline_draws (s : State) (v : Year) : (s.setBaseline v).draws = s.draws := rfl

@[simp] theorem State.setRegs_baseline (s : State) (m : Memory) : (s.setRegs m).baseline = s.baseline := rfl
@[simp] theorem State.setRegs_reg (s : State) (m : Memory) : (s.setRegs m).reg = m := rfl
@[simp] theorem State.setRegs_latch (s : State) (m : Memory) : (s.setRegs m).latch = s.latch := rfl
@[simp] theorem State.setRegs_busHeld (s : State) (m : Memory) : (s.setRegs m).busHeld = s.busHeld := rfl
@[simp] theorem State.setRegs_params (s : State) (m : Memory) : (s.setRegs m).params = s.params := rfl
@[simp] theorem State.setRegs_host (s : State) (m : Memory) : (s.setRegs m).host = s.host := rfl
@[simp] theorem State.setRegs_env (s : State) (m : Memory) : (s.setRegs m).env = s.env := rfl
@[simp] theorem State.setRegs_port (s : State) (m : Memory) : (s.setRegs m).port = s.port := rfl
@[simp] theorem State.setRegs_draws (s : State) (m : Memory) : (s.setRegs m).draws = s.draws := rfl

@[simp] theorem State.setLatch_baseline (s : State) (v : Byte) : (s.setLatch v).baseline = s.baseline := rfl
@[simp] theorem State.setLatch_reg (s : State) (v : Byte) : (s.setLatch v).reg = s.reg := rfl
@[simp] theorem State.setLatch_latch (s : State) (v : Byte) : (s.setLatch v).latch = v := rfl
@[simp] theorem State.setLatch_busHeld (s : State) (v : Byte) : (s.setLatch v).busHeld = s.busHeld := rfl
@[simp] theorem State.setLatch_params (s : State) (v : Byte) : (s.setLatch v).params = s.params := rfl
@[simp] theorem State.setLatch_host (s : State) (v : Byte) : (s.setLatch v).host = s.host := rfl
@[simp] theorem State.setLatch_env (s : State) (v : Byte) : (s.setLatch v).env = s.env := rfl
@[simp] theorem State.setLatch_port (s : State) (v : Byte) : (s.setLatch v).port = s.port := rfl
@[simp] theorem State.setLatch_draws (s : State) (v : Byte) : (s.setLatch v).draws = s.draws := rfl

@[simp] theorem State.setBusHeld_baseline (s : State) (v : Bool) : (s.setBusHeld v).baseline = s.baseline := rfl
@[simp] theorem State.setBusHeld_reg (s : State) (v : Bool) : (s.setBusHeld v).reg = s.reg := rfl
@[simp] theorem State.setBusHeld_latch (s : State) (v : Bool) : (s.setBusHeld v).latch = s.latch := rfl
@[simp] theorem State.setBusHeld_busHeld (s : State) (v : Bool) : (s.setBusHeld v).busHeld = v := rfl
@[simp] theorem State.setBusHeld_params (s : State) (v : Bool) : (s.setBusHeld v).params = s.params := rfl
@[simp] theorem State.setBusHeld_host (s : State) (v : Bool) : (s.setBusHeld v).host = s.host := rfl
@[simp] theorem State.setBusHeld_env (s : State) (v : Bool) : (s.setBusHeld v).env = s.env := rfl
@[simp] theorem State.setBusHeld_port (s : State) (v : Bool) : (s.setBusHeld v).port = s.port := rfl
@[simp] theorem State.setBusHeld_draws (s : State) (v : Bool) : (s.setBusHeld v).draws = s.draws := rfl

@[simp] theorem State.setHost_baseline (s : State) (v : List HostMove) : (s.setHost v).baseline = s.baseline := rfl
@[simp] theorem State.setHost_reg (s : State) (v : List HostMove) : (s.setHost v).reg = s.reg := rfl
@[simp] theorem State.setHost_latch (s : State) (v : List HostMove) : (s.setHost v).latch = s.latch := rfl
@[simp] theorem State.setHost_busHeld (s : State) (v : List HostMove) : (s.setHost v).busHeld = s.busHeld := rfl
@[simp] theorem State.setHost_params (s : State) (v : List HostMove) : (s.setHost v).params = s.params := rfl
@[simp] theorem State.setHost_host (s : State) (v : List HostMove) : (s.setHost v).host = v := rfl
@[simp] theorem State.setHost_env (s : State) (v : List HostMove) : (s.setHost v).env = s.env := rfl
@[simp] theorem State.setHost_port (s : State) (v : List HostMove) : (s.setHost v).port = s.port := rfl
@[simp] theorem State.setHost_draws (s : State) (v : List HostMove) : (s.setHost v).draws = s.draws := rfl

@[simp] theorem State.setEnv_baseline (s : State) (v : List EnvMove) : (s.setEnv v).baseline = s.baseline := rfl
@[simp] theorem State.setEnv_reg (s : State) (v : List EnvMove) : (s.setEnv v).reg = s.reg := rfl
@[simp] theorem State.setEnv_latch (s : State) (v : List EnvMove) : (s.setEnv v).latch = s.latch := rfl
@[simp] theorem State.setEnv_busHeld (s : State) (v : List EnvMove) : (s.setEnv v).busHeld = s.busHeld := rfl
@[simp] theorem State.setEnv_params (s : State) (v : List EnvMove) : (s.setEnv v).params = s.params := rfl
@[simp] theorem State.setEnv_host (s : State) (v : List EnvMove) : (s.setEnv v).host = s.host := rfl
@[simp] theorem State.setEnv_env (s : State) (v : List EnvMove) : (s.setEnv v).env = v := rfl
@[simp] theorem State.setEnv_port (s : State) (v : List EnvMove) : (s.setEnv v).port = s.port := rfl
@[simp] theorem State.setEnv_draws (s : State) (v : List EnvMove) : (s.setEnv v).draws = s.draws := rfl

@[simp] theorem State.emit_baseline (s : State) (e : PortEvent) : (s.emit e).baseline = s.baseline := rfl
@[simp] theorem State.emit_reg (s : State) (e : PortEvent) : (s.emit e).reg = s.reg := rfl
@[simp] theorem State.emit_latch (s : State) (e : PortEvent) : (s.emit e).latch = s.latch := rfl
@[simp] theorem State.emit_busHeld (s : State) (e : PortEvent) : (s.emit e).busHeld = s.busHeld := rfl
@[simp] theorem State.emit_params (s : State) (e : PortEvent) : (s.emit e).params = s.params := rfl
@[simp] theorem State.emit_host (s : State) (e : PortEvent) : (s.emit e).host = s.host := rfl
@[simp] theorem State.emit_env (s : State) (e : PortEvent) : (s.emit e).env = s.env := rfl
@[simp] theorem State.emit_port (s : State) (e : PortEvent) : (s.emit e).port = s.port ++ [e] := rfl
@[simp] theorem State.emit_draws (s : State) (e : PortEvent) : (s.emit e).draws = s.draws := rfl

@[simp] theorem State.drew_baseline (s : State) : s.drew.baseline = s.baseline := rfl
@[simp] theorem State.drew_reg (s : State) : s.drew.reg = s.reg := rfl
@[simp] theorem State.drew_latch (s : State) : s.drew.latch = s.latch := rfl
@[simp] theorem State.drew_busHeld (s : State) : s.drew.busHeld = s.busHeld := rfl
@[simp] theorem State.drew_params (s : State) : s.drew.params = s.params := rfl
@[simp] theorem State.drew_host (s : State) : s.drew.host = s.host := rfl
@[simp] theorem State.drew_env (s : State) : s.drew.env = s.env := rfl
@[simp] theorem State.drew_port (s : State) : s.drew.port = s.port := rfl
@[simp] theorem State.drew_draws (s : State) : s.drew.draws = s.draws + 1 := rfl

@[simp] theorem State.writeReg_baseline (s : State) (r : Register) (v : Byte) : (s.writeReg r v).baseline = s.baseline := rfl
@[simp] theorem State.writeReg_latch (s : State) (r : Register) (v : Byte) : (s.writeReg r v).latch = s.latch := rfl
@[simp] theorem State.writeReg_busHeld (s : State) (r : Register) (v : Byte) : (s.writeReg r v).busHeld = s.busHeld := rfl
@[simp] theorem State.writeReg_params (s : State) (r : Register) (v : Byte) : (s.writeReg r v).params = s.params := rfl
@[simp] theorem State.writeReg_host (s : State) (r : Register) (v : Byte) : (s.writeReg r v).host = s.host := rfl
@[simp] theorem State.writeReg_env (s : State) (r : Register) (v : Byte) : (s.writeReg r v).env = s.env := rfl
@[simp] theorem State.writeReg_port (s : State) (r : Register) (v : Byte) : (s.writeReg r v).port = s.port := rfl
@[simp] theorem State.writeReg_draws (s : State) (r : Register) (v : Byte) : (s.writeReg r v).draws = s.draws := rfl
@[simp] theorem State.writeReg_reg (s : State) (r : Register) (v : Byte) :
    (s.writeReg r v).reg = s.reg.write r.key v := rfl

@[simp] theorem State.setBaseline_readReg (s : State) (v : Year) (r : Register) : (s.setBaseline v).readReg r = s.readReg r := rfl
@[simp] theorem State.setLatch_readReg (s : State) (v : Byte) (r : Register) : (s.setLatch v).readReg r = s.readReg r := rfl
@[simp] theorem State.setBusHeld_readReg (s : State) (v : Bool) (r : Register) : (s.setBusHeld v).readReg r = s.readReg r := rfl
@[simp] theorem State.setHost_readReg (s : State) (v : List HostMove) (r : Register) : (s.setHost v).readReg r = s.readReg r := rfl
@[simp] theorem State.setEnv_readReg (s : State) (v : List EnvMove) (r : Register) : (s.setEnv v).readReg r = s.readReg r := rfl
@[simp] theorem State.emit_readReg (s : State) (e : PortEvent) (r : Register) : (s.emit e).readReg r = s.readReg r := rfl
@[simp] theorem State.drew_readReg (s : State) (r : Register) : s.drew.readReg r = s.readReg r := rfl

end Sys2Proof.Machine
end

