-- ==== Sys2Proof/Laws/Ops.lean ====
section
/-! SUPPORT. What each shared operation can do, said once. -/

namespace Sys2Proof.Machine

/-! ### Registers -/

@[simp] theorem State.readReg_writeReg_same (s : State) (r : Register) (v : Byte) :
    (s.writeReg r v).readReg r = v := Memory.read_write_same _ _ _

theorem State.readReg_writeReg_other (s : State) {r q : Register} (v : Byte) (h : q ≠ r) :
    (s.writeReg r v).readReg q = s.readReg q :=
  Memory.read_write_other (fun e => h (Register.key_injective e))

theorem State.readReg_writeReg (s : State) (r q : Register) (v : Byte) :
    (s.writeReg r v).readReg q = if q = r then v else s.readReg q := by
  split
  · next h => subst h; exact s.readReg_writeReg_same q v
  · next h => exact s.readReg_writeReg_other v h

theorem State.wf_writeReg {s : State} (h : s.reg.wf) (r : Register) (v : Byte) : (s.writeReg r v).reg.wf :=
  Memory.wf_write h (isRegisterKey_key r) v

/-! ### The peripheral's own steps -/

/-- What a peripheral step or an environment answer never touches: everything but `REG`, `env` and `draws`. -/
structure SameBlock (s t : State) : Prop where
  baseline : t.baseline = s.baseline
  latch : t.latch = s.latch
  busHeld : t.busHeld = s.busHeld
  params : t.params = s.params
  host : t.host = s.host
  port : t.port = s.port

theorem SameBlock.refl (s : State) : SameBlock s s := ⟨rfl, rfl, rfl, rfl, rfl, rfl⟩

theorem SameBlock.trans {s t u : State} (h : SameBlock s t) (k : SameBlock t u) : SameBlock s u :=
  ⟨k.1.trans h.1, k.2.trans h.2, k.3.trans h.3, k.4.trans h.4, k.5.trans h.5, k.6.trans h.6⟩

theorem tickReg_wf (r : Register) (k d : Byte) {m : Memory} (h : m.wf) : (tickReg r k d m).wf :=
  Memory.wf_write h (isRegisterKey_key r) _

theorem tickReg_read (r q : Register) (k d : Byte) (m : Memory) :
    (tickReg r k d m).read q.key =
      if q = r then (m.read q.key &&& k) ||| d else m.read q.key := by
  unfold tickReg
  split
  · next h => subst h; exact Memory.read_write_same _ _ _
  · next h => exact Memory.read_write_other (fun e => h (Register.key_injective e))

theorem tickFields_wf (t : Tick) (c : Byte) {m : Memory} (h : m.wf) : (tickFields t c m).wf := by
  unfold tickFields
  iterate 7 apply tickReg_wf
  exact h

theorem applyTick_halted {s : State} (t : Tick) (h : s.runState = .halted) : applyTick t s = s := by
  simp [applyTick, h]

theorem applyTick_running {s : State} (t : Tick) (h : s.runState = .running) :
    applyTick t s = (s.setRegs (tickFields t (if centAfter s t.carry then 0x80 else 0) s.reg)).drew := by
  simp [applyTick, h]

theorem State.runState_eq (s : State) : s.runState = .halted ∨ s.runState = .running := by
  cases s.runState <;> simp

theorem applyTick_sameBlock (t : Tick) (s : State) : SameBlock s (applyTick t s) := by
  rcases s.runState_eq with h | h
  · rw [applyTick_halted t h]; exact .refl s
  · rw [applyTick_running t h]
    exact ⟨rfl, rfl, rfl, rfl, rfl, rfl⟩

theorem applyTick_env (t : Tick) (s : State) : (applyTick t s).env = s.env := by
  rcases s.runState_eq with h | h
  · rw [applyTick_halted t h]
  · rw [applyTick_running t h, State.drew_env, State.setRegs_env]

theorem applyTick_wf (t : Tick) {s : State} (h : s.reg.wf) : (applyTick t s).reg.wf := by
  rcases s.runState_eq with hr | hr
  · rwa [applyTick_halted t hr]
  · rw [applyTick_running t hr, State.drew_reg, State.setRegs_reg]; exact tickFields_wf t _ h

theorem runTicks_sameBlock (e : List EnvMove) (s : State) : SameBlock s (runTicks e s) := by
  induction e generalizing s with
  | nil => exact ⟨rfl, rfl, rfl, rfl, rfl, rfl⟩
  | cons m e ih =>
    cases m with
    | tick t => exact (applyTick_sameBlock t s).trans (ih _)
    | answer ok => exact ⟨rfl, rfl, rfl, rfl, rfl, rfl⟩

theorem runTicks_wf (e : List EnvMove) {s : State} (h : s.reg.wf) : (runTicks e s).reg.wf := by
  induction e generalizing s with
  | nil => exact h
  | cons m e ih =>
    cases m with
    | tick t => exact ih (applyTick_wf t h)
    | answer ok => exact h

/-- A halted clock takes no step of its own (R48, R50). -/
theorem runTicks_halted (e : List EnvMove) {s : State} (h : s.runState = .halted) :
    (runTicks e s).reg = s.reg ∧ (runTicks e s).draws = s.draws := by
  induction e with
  | nil => exact ⟨rfl, rfl⟩
  | cons m e ih =>
    cases m with
    | tick t => simpa [runTicks, applyTick_halted t h] using ih
    | answer ok => exact ⟨rfl, rfl⟩

theorem State.ticks_sameBlock (s : State) : SameBlock s s.ticks := runTicks_sameBlock s.env s

theorem State.settle_sameBlock (s : State) : SameBlock s s.settle :=
  s.ticks_sameBlock.trans ⟨rfl, rfl, rfl, rfl, rfl, rfl⟩

@[simp] theorem State.ticks_baseline (s : State) : s.ticks.baseline = s.baseline := s.ticks_sameBlock.baseline
@[simp] theorem State.ticks_latch (s : State) : s.ticks.latch = s.latch := s.ticks_sameBlock.latch
@[simp] theorem State.ticks_busHeld (s : State) : s.ticks.busHeld = s.busHeld := s.ticks_sameBlock.busHeld
@[simp] theorem State.ticks_params (s : State) : s.ticks.params = s.params := s.ticks_sameBlock.params
@[simp] theorem State.ticks_host (s : State) : s.ticks.host = s.host := s.ticks_sameBlock.host
@[simp] theorem State.ticks_port (s : State) : s.ticks.port = s.port := s.ticks_sameBlock.port
@[simp] theorem State.settle_baseline (s : State) : s.settle.baseline = s.baseline := s.settle_sameBlock.baseline
@[simp] theorem State.settle_latch (s : State) : s.settle.latch = s.latch := s.settle_sameBlock.latch
@[simp] theorem State.settle_busHeld (s : State) : s.settle.busHeld = s.busHeld := s.settle_sameBlock.busHeld
@[simp] theorem State.settle_params (s : State) : s.settle.params = s.params := s.settle_sameBlock.params
@[simp] theorem State.settle_host (s : State) : s.settle.host = s.host := s.settle_sameBlock.host
@[simp] theorem State.settle_port (s : State) : s.settle.port = s.port := s.settle_sameBlock.port
@[simp] theorem State.settle_env (s : State) : s.settle.env = afterAnswer s.env := rfl

theorem State.settle_wf {s : State} (h : s.reg.wf) : s.settle.reg.wf := runTicks_wf s.env h

theorem State.ticks_nil {s : State} (h : s.env = []) : s.ticks = s := by
  cases s; simp only at h; subst h; rfl

theorem State.settle_nil {s : State} (h : s.env = []) : s.settle = s := by
  cases s; simp only at h; subst h; rfl

/-- The fields of the block beside a peripheral step: the step commutes with changing them. -/
def State.withBlock (s : State) (b : Year) (l : Byte) (h : Bool) (p : List PortEvent) : State :=
  { s with baseline := b, latch := l, busHeld := h, port := p }

section

variable (s : State) (b : Year) (l : Byte) (h : Bool) (p : List PortEvent)

@[simp] theorem State.withBlock_baseline : (s.withBlock b l h p).baseline = b := rfl
@[simp] theorem State.withBlock_reg : (s.withBlock b l h p).reg = s.reg := rfl
@[simp] theorem State.withBlock_latch : (s.withBlock b l h p).latch = l := rfl
@[simp] theorem State.withBlock_busHeld : (s.withBlock b l h p).busHeld = h := rfl
@[simp] theorem State.withBlock_params : (s.withBlock b l h p).params = s.params := rfl
@[simp] theorem State.withBlock_host : (s.withBlock b l h p).host = s.host := rfl
@[simp] theorem State.withBlock_env : (s.withBlock b l h p).env = s.env := rfl
@[simp] theorem State.withBlock_port : (s.withBlock b l h p).port = p := rfl
@[simp] theorem State.withBlock_draws : (s.withBlock b l h p).draws = s.draws := rfl
@[simp] theorem State.withBlock_readReg (r : Register) : (s.withBlock b l h p).readReg r = s.readReg r := rfl

end

theorem applyTick_withBlock (k : Tick) (s : State) (b : Year) (l : Byte) (h : Bool) (p : List PortEvent) :
    applyTick k (s.withBlock b l h p) = (applyTick k s).withBlock b l h p := by
  have hs : (s.withBlock b l h p).runState = s.runState := rfl
  rcases s.runState_eq with r | r
  · rw [applyTick_halted k r, applyTick_halted k (hs.trans r)]
  · rw [applyTick_running k r, applyTick_running k (hs.trans r)]
    rfl

theorem runTicks_withBlock (e : List EnvMove) (s : State) (b : Year) (l : Byte) (h : Bool) (p : List PortEvent) :
    runTicks e (s.withBlock b l h p) = (runTicks e s).withBlock b l h p := by
  induction e generalizing s with
  | nil => rfl
  | cons m e ih =>
    cases m with
    | tick k => rw [runTicks, runTicks, applyTick_withBlock, ih]
    | answer ok => rfl

theorem State.settle_withBlock (s : State) (b : Year) (l : Byte) (h : Bool) (p : List PortEvent) :
    (s.withBlock b l h p).settle = s.settle.withBlock b l h p := by
  have := runTicks_withBlock s.env s b l h p
  simp only [State.settle, State.ticks]
  rw [show (s.withBlock b l h p).env = s.env from rfl, this]
  rfl

/-! ### Free values -/

theorem State.unknownReg_sameBlock (s : State) (r : Register) : SameBlock s (s.unknownReg r) :=
  ⟨rfl, rfl, rfl, rfl, rfl, rfl⟩

theorem foldl_unknownReg_sameBlock (l : List Register) (s : State) :
    SameBlock s (l.foldl State.unknownReg s) ∧ (l.foldl State.unknownReg s).env = s.env := by
  induction l generalizing s with
  | nil => exact ⟨.refl s, rfl⟩
  | cons r l ih => exact ⟨(s.unknownReg_sameBlock r).trans (ih _).1, (ih _).2⟩

theorem State.unknownDevice_sameBlock (s : State) : SameBlock s s.unknownDevice :=
  (foldl_unknownReg_sameBlock Register.all s).1

theorem State.unknownDevice_env (s : State) : s.unknownDevice.env = s.env :=
  (foldl_unknownReg_sameBlock Register.all s).2

theorem State.unknownDevice_wf {s : State} (h : s.reg.wf) : s.unknownDevice.reg.wf := by
  have key : ∀ (l : List Register) {s : State}, s.reg.wf → (l.foldl State.unknownReg s).reg.wf := by
    intro l
    induction l with
    | nil => exact id
    | cons r l ih => intro s h; exact ih (s := s.unknownReg r) (State.wf_writeReg h r _)
  exact key _ h

/-! ### Transactions -/

/-- The state in which a `MemRead` of `r` has been answered, when both of its calls are (R72). -/
def readDone (r : Register) (s : State) : State :=
  let s2 := s.settle.settle
  { s2 with
    port := s.port ++ [.write s.params.deviceAddr [s.params.addresses.addr r] true true,
      .read s.params.deviceAddr (some (s2.readReg r))]
    latch := s2.readReg r
    busHeld := false }

theorem settle_emit_setBusHeld (s : State) (e : PortEvent) (b : Bool) :
    ((s.emit e).setBusHeld b).settle = (s.settle.emit e).setBusHeld b := by
  have h := State.settle_withBlock s s.baseline s.latch b (s.port ++ [e])
  simp only [State.withBlock] at h
  simpa [State.emit, State.setBusHeld] using h

/-- The state in which the address phase of a `MemRead` of `r` has been answered OK. -/
def addressDone (r : Register) (s : State) : State :=
  (s.settle.emit (.write s.params.deviceAddr [s.params.addresses.addr r] true true)).setBusHeld true

@[simp] theorem addressDone_env (r : Register) (s : State) : (addressDone r s).env = afterAnswer s.env := rfl
@[simp] theorem addressDone_reg (r : Register) (s : State) : (addressDone r s).reg = s.settle.reg := rfl
@[simp] theorem addressDone_baseline (r : Register) (s : State) : (addressDone r s).baseline = s.baseline := by
  simp [addressDone]
@[simp] theorem addressDone_params (r : Register) (s : State) : (addressDone r s).params = s.params := by
  simp [addressDone]
@[simp] theorem addressDone_host (r : Register) (s : State) : (addressDone r s).host = s.host := by simp [addressDone]
@[simp] theorem addressDone_port (r : Register) (s : State) : (addressDone r s).port =
    s.port ++ [.write s.params.deviceAddr [s.params.addresses.addr r] true true] := by simp [addressDone]

theorem addressDone_wf {s : State} (h : s.reg.wf) (r : Register) : (addressDone r s).reg.wf := State.settle_wf h

theorem addressDone_settle (r : Register) (s : State) : (addressDone r s).settle =
    (s.settle.settle.emit (.write s.params.deviceAddr [s.params.addresses.addr r] true true)).setBusHeld true :=
  settle_emit_setBusHeld _ _ _

theorem addressPhase_ok {r : Register} {s : State} (h : nextAnswer s.env = true) :
    addressPhase r s = .done (addressDone r s) := by
  simp [addressPhase, h, addressDone]

theorem memRead_ok {r : Register} {s : State} (h : answersOk 2 s.env = true) :
    memRead r s = .done (readDone r s) := by
  simp only [answersOk, Bool.and_true, Bool.and_eq_true] at h
  simp only [memRead, addressPhase_ok h.1, dataPhase, addressDone_env, h.2, if_true, addressDone_settle]
  simp [readDone, State.emit, State.setBusHeld, State.setLatch, State.readReg]

/-- What a failed transaction leaves alone: the block's own state is exact (R237); `calls` are the calls made. -/
structure FailedFrom (s : State) (calls : List PortEvent) (t : State) : Prop where
  port : t.port = s.port ++ calls
  baseline : t.baseline = s.baseline
  params : t.params = s.params
  host : t.host = s.host
  wf : s.reg.wf → t.reg.wf

theorem FailedFrom.after {s t u : State} {c d : List PortEvent} (h : FailedFrom s c t) (k : FailedFrom t d u) :
    FailedFrom s (c ++ d) u :=
  ⟨by rw [k.port, h.port, List.append_assoc], k.baseline.trans h.baseline, k.params.trans h.params,
    k.host.trans h.host, fun w => k.wf (h.wf w)⟩

theorem failedFrom_unknown {s t : State} {calls : List PortEvent} (h : FailedFrom s calls t) :
    FailedFrom s calls t.unknownBus.unknownDevice := by
  have k := (t.unknownBus).unknownDevice_sameBlock
  exact ⟨k.port.trans h.port, k.baseline.trans h.baseline, k.params.trans h.params, k.host.trans h.host,
    fun w => State.unknownDevice_wf (h.wf w)⟩

/-- An address phase that is not answered OK (R72). -/
theorem addressPhase_failed {r : Register} {s : State} (h : nextAnswer s.env = false) :
    ∃ t, addressPhase r s = .failed t ∧
      FailedFrom s [.write s.params.deviceAddr [s.params.addresses.addr r] true false] t := by
  simp only [addressPhase, h]
  refine ⟨_, rfl, failedFrom_unknown ⟨?_, ?_, ?_, ?_, fun w => State.settle_wf w⟩⟩ <;> simp

/-- A `MemRead` one of whose calls is not answered OK (R72, R235): its address phase failed, or its data phase did. -/
theorem memRead_failed {r : Register} {s : State} (h : answersOk 2 s.env = false) :
    ∃ t calls, memRead r s = .failed t ∧ FailedFrom s calls t ∧
      (calls = [.write s.params.deviceAddr [s.params.addresses.addr r] true false] ∨
        calls = [.write s.params.deviceAddr [s.params.addresses.addr r] true true, .read s.params.deviceAddr none]) := by
  cases h1 : nextAnswer s.env with
  | false =>
    obtain ⟨t, ht, k⟩ := addressPhase_failed (r := r) h1
    exact ⟨t, _, by rw [memRead, ht], k, .inl rfl⟩
  | true =>
    have h2 : nextAnswer (afterAnswer s.env) = false := by simpa [answersOk, h1] using h
    simp only [memRead, addressPhase_ok h1, dataPhase, addressDone_env, h2, addressDone_settle]
    refine ⟨_, _, rfl, failedFrom_unknown ⟨?_, ?_, ?_, ?_, fun w => ?_⟩, .inr rfl⟩
    case refine_5 => exact State.settle_wf (State.settle_wf w)
    all_goals simp

/-- The state in which a `MemWrite` has been answered OK (R73). -/
def writeDone (r : Register) (v : Byte) (s : State) : State :=
  { s.settle with
    reg := s.settle.reg.write r.key v
    port := s.port ++ [.write s.params.deviceAddr [s.params.addresses.addr r, v] false true]
    busHeld := false }

theorem memWrite_ok {r : Register} {v : Byte} {s : State} (h : nextAnswer s.env = true) :
    memWrite r v s = .done (writeDone r v s) := by
  simp [memWrite, h, writeDone, State.emit, State.setBusHeld, State.writeReg, State.setRegs]

/-- A `MemWrite` whose call is not answered OK (R73). -/
theorem memWrite_failed {r : Register} {v : Byte} {s : State} (h : nextAnswer s.env = false) :
    ∃ t, memWrite r v s = .failed t ∧ FailedFrom s [.write s.params.deviceAddr [s.params.addresses.addr r, v] false false] t := by
  unfold memWrite
  rw [h]
  refine ⟨_, rfl, failedFrom_unknown ⟨?_, ?_, ?_, ?_, fun w => State.settle_wf w⟩⟩ <;> simp

theorem readDone_wf {s : State} (h : s.reg.wf) (r : Register) : (readDone r s).reg.wf :=
  State.settle_wf (State.settle_wf h)

theorem writeDone_wf {s : State} (h : s.reg.wf) (r : Register) (v : Byte) : (writeDone r v s).reg.wf :=
  Memory.wf_write (State.settle_wf h) (isRegisterKey_key r) v

/-- What the peripheral does after a `MemRead` is what it would have done without it. -/
theorem readDone_settle (r : Register) (s : State) :
    (readDone r s).settle =
      s.settle.settle.settle.withBlock s.baseline (s.settle.settle.readReg r) false (readDone r s).port := by
  have h : readDone r s =
      s.settle.settle.withBlock s.baseline (s.settle.settle.readReg r) false (readDone r s).port := by
    simp [readDone, State.withBlock]
  rw [h, State.settle_withBlock]
  rfl

@[simp] theorem readDone_env (r : Register) (s : State) : (readDone r s).env = afterAnswer (afterAnswer s.env) := rfl
@[simp] theorem readDone_reg (r : Register) (s : State) : (readDone r s).reg = s.settle.settle.reg := rfl
@[simp] theorem readDone_baseline (r : Register) (s : State) : (readDone r s).baseline = s.baseline := by
  simp [readDone]
@[simp] theorem readDone_params (r : Register) (s : State) : (readDone r s).params = s.params := by simp [readDone]
@[simp] theorem readDone_host (r : Register) (s : State) : (readDone r s).host = s.host := by simp [readDone]
@[simp] theorem readDone_busHeld (r : Register) (s : State) : (readDone r s).busHeld = false := rfl
@[simp] theorem readDone_port (r : Register) (s : State) : (readDone r s).port =
    s.port ++ [.write s.params.deviceAddr [s.params.addresses.addr r] true true,
      .read s.params.deviceAddr (some (s.settle.settle.readReg r))] := rfl
@[simp] theorem writeDone_env (r : Register) (v : Byte) (s : State) : (writeDone r v s).env = afterAnswer s.env := rfl
@[simp] theorem writeDone_reg (r : Register) (v : Byte) (s : State) :
    (writeDone r v s).reg = s.settle.reg.write r.key v := rfl
@[simp] theorem writeDone_baseline (r : Register) (v : Byte) (s : State) :
    (writeDone r v s).baseline = s.baseline := by simp [writeDone]
@[simp] theorem writeDone_params (r : Register) (v : Byte) (s : State) : (writeDone r v s).params = s.params := by
  simp [writeDone]
@[simp] theorem writeDone_host (r : Register) (v : Byte) (s : State) : (writeDone r v s).host = s.host := by
  simp [writeDone]
@[simp] theorem writeDone_busHeld (r : Register) (v : Byte) (s : State) : (writeDone r v s).busHeld = false := rfl
@[simp] theorem writeDone_port (r : Register) (v : Byte) (s : State) : (writeDone r v s).port =
    s.port ++ [.write s.params.deviceAddr [s.params.addresses.addr r, v] false true] := rfl

/-! ### Sequences -/

theorem readThen_ok {r : Register} {rest : Byte → State → State} {s : State} (h : answersOk 2 s.env = true) :
    readThen r rest s = rest (s.settle.settle.readReg r) (readDone r s) := by
  rw [readThen, memRead_ok h]
  rfl

theorem readThen_failed {r : Register} (rest : Byte → State → State) {s : State} (h : answersOk 2 s.env = false) :
    ∃ t calls, readThen r rest s = abort t ∧ FailedFrom s calls t ∧
      (calls = [.write s.params.deviceAddr [s.params.addresses.addr r] true false] ∨
        calls = [.write s.params.deviceAddr [s.params.addresses.addr r] true true, .read s.params.deviceAddr none]) := by
  obtain ⟨t, calls, ht, k⟩ := memRead_failed (r := r) h
  exact ⟨t, calls, by rw [readThen, ht], k⟩

theorem writeThen_ok {r : Register} {v : Byte} {rest : State → State} {s : State} (h : nextAnswer s.env = true) :
    writeThen r v rest s = rest (writeDone r v s) := by
  rw [writeThen, memWrite_ok h]

theorem writeThen_failed {r : Register} {v : Byte} (rest : State → State) {s : State} (h : nextAnswer s.env = false) :
    ∃ t, writeThen r v rest s = abort t ∧ FailedFrom s [.write s.params.deviceAddr [s.params.addresses.addr r, v] false false] t := by
  obtain ⟨t, ht, k⟩ := memWrite_failed (r := r) (v := v) h
  exact ⟨t, by rw [writeThen, ht], k⟩

@[simp] theorem finish_baseline (b : Bundle) (s : State) : (finish b s).baseline = s.baseline := rfl
@[simp] theorem finish_reg (b : Bundle) (s : State) : (finish b s).reg = s.reg := rfl
@[simp] theorem finish_busHeld (b : Bundle) (s : State) : (finish b s).busHeld = s.busHeld := rfl
@[simp] theorem finish_params (b : Bundle) (s : State) : (finish b s).params = s.params := rfl
@[simp] theorem finish_host (b : Bundle) (s : State) : (finish b s).host = s.host := rfl
@[simp] theorem finish_env (b : Bundle) (s : State) : (finish b s).env = s.env := rfl
@[simp] theorem finish_port (b : Bundle) (s : State) : (finish b s).port = s.port ++ [.result b] := rfl

end Sys2Proof.Machine
end

