-- ==== Sys2Proof/Laws/PerInstr.lean ====
section
/-! SUPPORT. Facts said per instruction: the encoded word of every instruction lies in its own row of
`spec/opcode_table.json` (mask 0xFF0000, R100, R101). -/

namespace Sys2Proof.Laws

/-- `cmd[23:16]` of an instruction's row of the opcode table. -/
def rowOp : Instr → Byte
  | .decSec _ => 0x00
  | .decMin _ => 0x01
  | .decHour _ => 0x02
  | .decDay _ => 0x03
  | .decDate _ => 0x04
  | .decMon _ => 0x05
  | .decYr _ => 0x06
  | .encSec _ _ => 0x10
  | .encMin _ _ => 0x11
  | .encHour _ _ => 0x12
  | .encDay _ _ => 0x13
  | .encDate _ _ => 0x14
  | .encMon _ _ => 0x15
  | .encYr _ _ => 0x16
  | .decYear _ _ => 0x20
  | .prepYear _ => 0x21
  | .getSec => 0x30
  | .getMin => 0x31
  | .getHour => 0x32
  | .getDay => 0x33
  | .getDate => 0x34
  | .getMon => 0x35
  | .getYr => 0x36
  | .getYear => 0x37
  | .setSec _ => 0x40
  | .setMin _ => 0x41
  | .setHour _ => 0x42
  | .setDay _ => 0x43
  | .setDate _ => 0x44
  | .setMon _ => 0x45
  | .setYr _ => 0x46
  | .setYear _ => 0x47
  | .start => 0x50
  | .stop => 0x51
  | .rdb _ => 0x60
  | .wrb _ _ => 0x61

/-- The encoded word of `i` has the op of its row. -/
def OpcodeRow.Statement (i : Instr) : Prop := opField (encode i) = rowOp i

theorem OpcodeRow.decSec (byte : Byte) : OpcodeRow.Statement (.decSec byte) := opField_word _ _ _
theorem OpcodeRow.decMin (byte : Byte) : OpcodeRow.Statement (.decMin byte) := opField_word _ _ _
theorem OpcodeRow.decHour (byte : Byte) : OpcodeRow.Statement (.decHour byte) := opField_word _ _ _
theorem OpcodeRow.decDay (byte : Byte) : OpcodeRow.Statement (.decDay byte) := opField_word _ _ _
theorem OpcodeRow.decDate (byte : Byte) : OpcodeRow.Statement (.decDate byte) := opField_word _ _ _
theorem OpcodeRow.decMon (byte : Byte) : OpcodeRow.Statement (.decMon byte) := opField_word _ _ _
theorem OpcodeRow.decYr (byte : Byte) : OpcodeRow.Statement (.decYr byte) := opField_word _ _ _
theorem OpcodeRow.encSec (value currentByte : Byte) : OpcodeRow.Statement (.encSec value currentByte) := opField_word _ _ _
theorem OpcodeRow.encMin (value currentByte : Byte) : OpcodeRow.Statement (.encMin value currentByte) := opField_word _ _ _
theorem OpcodeRow.encHour (value currentByte : Byte) : OpcodeRow.Statement (.encHour value currentByte) := opField_word _ _ _
theorem OpcodeRow.encDay (value currentByte : Byte) : OpcodeRow.Statement (.encDay value currentByte) := opField_word _ _ _
theorem OpcodeRow.encDate (value currentByte : Byte) : OpcodeRow.Statement (.encDate value currentByte) := opField_word _ _ _
theorem OpcodeRow.encMon (value currentByte : Byte) : OpcodeRow.Statement (.encMon value currentByte) := opField_word _ _ _
theorem OpcodeRow.encYr (value currentByte : Byte) : OpcodeRow.Statement (.encYr value currentByte) := opField_word _ _ _
theorem OpcodeRow.decYear (rawYearByte : Byte) (centOverflowBit : Bool) : OpcodeRow.Statement (.decYear rawYearByte centOverflowBit) := opField_word _ _ _
theorem OpcodeRow.prepYear (fullYear : Year) : OpcodeRow.Statement (.prepYear fullYear) := opField_wordYear _ _
theorem OpcodeRow.getSec : OpcodeRow.Statement .getSec := opField_word _ _ _
theorem OpcodeRow.getMin : OpcodeRow.Statement .getMin := opField_word _ _ _
theorem OpcodeRow.getHour : OpcodeRow.Statement .getHour := opField_word _ _ _
theorem OpcodeRow.getDay : OpcodeRow.Statement .getDay := opField_word _ _ _
theorem OpcodeRow.getDate : OpcodeRow.Statement .getDate := opField_word _ _ _
theorem OpcodeRow.getMon : OpcodeRow.Statement .getMon := opField_word _ _ _
theorem OpcodeRow.getYr : OpcodeRow.Statement .getYr := opField_word _ _ _
theorem OpcodeRow.getYear : OpcodeRow.Statement .getYear := opField_word _ _ _
theorem OpcodeRow.setSec (value : Byte) : OpcodeRow.Statement (.setSec value) := opField_word _ _ _
theorem OpcodeRow.setMin (value : Byte) : OpcodeRow.Statement (.setMin value) := opField_word _ _ _
theorem OpcodeRow.setHour (value : Byte) : OpcodeRow.Statement (.setHour value) := opField_word _ _ _
theorem OpcodeRow.setDay (value : Byte) : OpcodeRow.Statement (.setDay value) := opField_word _ _ _
theorem OpcodeRow.setDate (value : Byte) : OpcodeRow.Statement (.setDate value) := opField_word _ _ _
theorem OpcodeRow.setMon (value : Byte) : OpcodeRow.Statement (.setMon value) := opField_word _ _ _
theorem OpcodeRow.setYr (value : Byte) : OpcodeRow.Statement (.setYr value) := opField_word _ _ _
theorem OpcodeRow.setYear (fullYear : Year) : OpcodeRow.Statement (.setYear fullYear) := opField_wordYear _ _
theorem OpcodeRow.start : OpcodeRow.Statement .start := opField_word _ _ _
theorem OpcodeRow.stop : OpcodeRow.Statement .stop := opField_word _ _ _
theorem OpcodeRow.rdb (register : Byte) : OpcodeRow.Statement (.rdb register) := opField_word _ _ _
theorem OpcodeRow.wrb (register byte : Byte) : OpcodeRow.Statement (.wrb register byte) := opField_word _ _ _

end Sys2Proof.Laws
end

