-- ==== Sys2Proof/Laws/Plan.lean ====
section
/-! SUPPORT. What a plan does when it is carried out and when a reset cuts it short. -/

namespace Sys2Proof.Machine

/-! ### A plan carried out -/

@[simp] theorem Plan.run_reply (b : Bundle) (s : State) : (Plan.reply b).run s = deliver b s := rfl
@[simp] theorem Plan.run_finish (b : Bundle) (s : State) : (Plan.finish b).run s = Sys2Proof.Machine.finish b s := rfl
@[simp] theorem Plan.run_commit (y : Year) (p : Plan) (s : State) :
    (Plan.commit y p).run s = p.run (commitBaseline y s) := rfl
@[simp] theorem Plan.run_read (r : Register) (next : Byte → Plan) (s : State) :
    (Plan.read r next).run s = readThen r (fun t s1 => (next t).run s1) s := rfl
@[simp] theorem Plan.run_write (r : Register) (v : Byte) (p : Plan) (s : State) :
    (Plan.write r v p).run s = writeThen r v (fun s1 => p.run s1) s := rfl

/-- `exec` runs the plans that `cutCommand` cuts short. -/
theorem exec_eq_run (i : Instr) (s : State) : exec i s = .next ((planOf i s).run s) := by
  cases i <;> rfl

/-! ### What a reset leaves -/

@[simp] theorem abandon_baseline (s : State) : (abandon s).baseline = s.params.baselineReset := rfl
@[simp] theorem abandon_reg (s : State) : (abandon s).reg = s.reg := rfl
@[simp] theorem abandon_busHeld (s : State) : (abandon s).busHeld = s.busHeld := rfl
@[simp] theorem abandon_params (s : State) : (abandon s).params = s.params := rfl
@[simp] theorem abandon_host (s : State) : (abandon s).host = s.host := rfl
@[simp] theorem abandon_env (s : State) : (abandon s).env = s.env := rfl
@[simp] theorem abandon_port (s : State) : (abandon s).port = s.port := rfl

@[simp] theorem cutOff_baseline (r : Register) (s : State) : (cutOff r s).baseline = s.baseline := rfl
@[simp] theorem cutOff_params (r : Register) (s : State) : (cutOff r s).params = s.params := rfl
@[simp] theorem cutOff_host (r : Register) (s : State) : (cutOff r s).host = s.host := rfl
@[simp] theorem cutOff_env (r : Register) (s : State) : (cutOff r s).env = s.env := rfl
@[simp] theorem cutOff_port (r : Register) (s : State) : (cutOff r s).port = s.port := rfl

theorem cutOff_wf {s : State} (h : s.reg.wf) (r : Register) : (cutOff r s).reg.wf := State.wf_writeReg h r _

/-- A transaction cut off leaves every register but its own. -/
theorem cutOff_readReg_other (s : State) {r q : Register} (h : q ≠ r) : (cutOff r s).readReg q = s.readReg q :=
  State.readReg_writeReg_other _ _ h

/-! ### A plan cut short -/

/-- What holds of the state a reset leaves, wherever in a command it comes (R260, R262). -/
structure ResetFrom (s t : State) : Prop where
  baseline : t.baseline = s.params.baselineReset
  params : t.params = s.params
  host : t.host = s.host
  wf : s.reg.wf → t.reg.wf

theorem ResetFrom.after {s t u : State} (hp : t.params = s.params) (hh : t.host = s.host) (hw : s.reg.wf → t.reg.wf)
    (k : ResetFrom t u) : ResetFrom s u :=
  ⟨by rw [k.baseline, hp], k.params.trans hp, k.host.trans hh, fun w => k.wf (hw w)⟩

theorem resetFrom_abandon (s : State) : ResetFrom s (abandon s) := ⟨rfl, rfl, rfl, id⟩

theorem resetFrom_failed {s t : State} {calls : List PortEvent} (h : FailedFrom s calls t) :
    ResetFrom s (resetBlock (abort t)) :=
  ⟨congrArg Params.baselineReset h.params, h.params, h.host, h.wf⟩

theorem resetFrom_cutOff {s t : State} (r : Register) (hp : t.params = s.params) (hh : t.host = s.host)
    (hw : s.reg.wf → t.reg.wf) : ResetFrom s (abandon (cutOff r t)) :=
  .after hp hh hw (.after (t := cutOff r t) rfl rfl (fun w => cutOff_wf w r) (resetFrom_abandon _))

theorem Plan.cutShort_resetFrom (p : Plan) (calls : Nat) (inFlight : Bool) (s : State) :
    ResetFrom s (p.cutShort calls inFlight s) := by
  induction p generalizing calls s with
  | reply b => exact resetFrom_abandon s
  | finish b => exact resetFrom_abandon s
  | commit y p ih =>
    have hc : (commitBaseline y s).params = s.params ∧ (commitBaseline y s).host = s.host ∧
        (commitBaseline y s).reg = s.reg := by unfold commitBaseline; split <;> exact ⟨rfl, rfl, rfl⟩
    exact .after hc.1 hc.2.1 (fun w => hc.2.2.symm ▸ w) (ih calls _)
  | read r next ih =>
    match calls, inFlight with
    | 0, false => exact resetFrom_abandon s
    | 0, true => exact resetFrom_cutOff r (by simp) (by simp) (runTicks_wf s.env)
    | 1, _ =>
      simp only [Plan.cutShort]
      cases h : nextAnswer s.env with
      | true =>
        rw [addressPhase_ok h]
        refine resetFrom_cutOff r ?_ ?_ ?_ <;> split
        · simp
        · simp
        · simp
        · simp
        · exact fun w => runTicks_wf _ (addressDone_wf w r)
        · exact fun w => addressDone_wf w r
      | false =>
        obtain ⟨t, ht, k⟩ := addressPhase_failed (r := r) h
        rw [ht]
        exact resetFrom_failed k
    | n + 2, _ =>
      simp only [Plan.cutShort]
      cases h : answersOk 2 s.env with
      | true =>
        rw [memRead_ok h]
        exact .after (readDone_params r s) (readDone_host r s) (fun w => readDone_wf w r) (ih _ _ _)
      | false =>
        obtain ⟨t, calls, ht, k, -⟩ := memRead_failed (r := r) h
        rw [ht]
        exact resetFrom_failed k
  | write r v p ih =>
    match calls, inFlight with
    | 0, false => exact resetFrom_abandon s
    | 0, true => exact resetFrom_cutOff r (by simp) (by simp) (runTicks_wf s.env)
    | n + 1, _ =>
      simp only [Plan.cutShort]
      cases h : nextAnswer s.env with
      | true =>
        rw [memWrite_ok h]
        exact .after (writeDone_params r v s) (writeDone_host r v s) (fun w => writeDone_wf w r v) (ih _ _)
      | false =>
        obtain ⟨t, ht, k⟩ := memWrite_failed (r := r) (v := v) h
        rw [ht]
        exact resetFrom_failed k

/-- Wherever a reset cuts a command short, `baseline` is `BASELINE_RESET` and the host's list is as it was. -/
theorem cutCommand_resetFrom (i : Instr) (calls : Nat) (inFlight : Bool) (s : State) :
    ResetFrom s (cutCommand i calls inFlight s) :=
  (planOf i s).cutShort_resetFrom calls inFlight s

end Sys2Proof.Machine
end

