-- ==== Sys2Proof/Tests/Slice0.lean ====
section
/-! SUPPORT. Tests. Expected values come from `spec/95_test_vectors.md` (its section stands beside each group) or are worked
out by hand from the rule named; none is the model's own answer. The witnesses at the end meet the hypotheses of the
statements in `Certificates/Slice0/Obligations.lean`. -/

namespace Sys2Proof.Tests

open Sys2Proof.Machine Sys2Proof.Claims

/-! ### Well-formedness: the one check there is (R113 (b)) -/

theorem test_wf_refuses_rdb_above_the_clock_registers : (Instr.rdb 0x0A).wf .standard = false := by decide
theorem test_wf_refuses_rdb_below_the_special_registers : (Instr.rdb 0x1F).wf .standard = false := by decide
theorem test_wf_refuses_wrb_above_the_map : (Instr.wrb 0x23 0xFF).wf .standard = false := by decide
theorem test_wf_accepts_every_register :
    Register.all.all (fun r => (Instr.rdb (AddressMap.standard.addr r)).wf .standard &&
      (Instr.wrb (AddressMap.standard.addr r) 0xFF).wf .standard) = true := by decide
theorem test_map_has_13_addresses : Register.all.length = 13 ∧ AddressMap.standard.wf := by decide

/-- A map that is not R61's: Minutes at 0x40 (the map is OPEN, R6). -/
def otherMap : AddressMap := { AddressMap.standard with minutes := 0x40 }

theorem test_wf_follows_the_map : (Instr.rdb 0x40).wf otherMap = true ∧ (Instr.rdb 0x01).wf otherMap = false := by decide

/-! ### Decoding: one word per constructor, written out from R101 and R102 (vectors of 2.1 to 2.7) -/

theorem test_decode_dec :
    decode .standard 0x0000D9 = .ok (.decSec 0xD9) ∧ decode .standard 0x0100C5 = .ok (.decMin 0xC5) ∧ decode .standard 0x0200E3 = .ok (.decHour 0xE3) ∧
    decode .standard 0x0300FB = .ok (.decDay 0xFB) ∧ decode .standard 0x040031 = .ok (.decDate 0x31) ∧ decode .standard 0x050012 = .ok (.decMon 0x12) ∧
    decode .standard 0x0600FF = .ok (.decYr 0xFF) := by decide

theorem test_decode_enc :
    decode .standard 0x10803B = .ok (.encSec 59 0x80) ∧ decode .standard 0x11803B = .ok (.encMin 59 0x80) ∧
    decode .standard 0x12C017 = .ok (.encHour 23 0xC0) ∧ decode .standard 0x13FF09 = .ok (.encDay 9 0xFF) ∧
    decode .standard 0x144028 = .ok (.encDate 40 0x40) ∧ decode .standard 0x1500FF = .ok (.encMon 255 0x00) ∧
    decode .standard 0x160064 = .ok (.encYr 100 0x00) := by decide

theorem test_decode_tracker :
    decode .standard 0x200123 = .ok (.decYear 0x23 true) ∧ decode .standard 0x200099 = .ok (.decYear 0x99 false) ∧
    decode .standard 0x20FF23 = .ok (.decYear 0x23 true) ∧ decode .standard 0x20FE23 = .ok (.decYear 0x23 false) ∧
    decode .standard 0x210834 = .ok (.prepYear 2100) ∧ decode .standard 0x21FFFF = .ok (.prepYear 65535) := by decide

theorem test_decode_get :
    decode .standard 0x300000 = .ok .getSec ∧ decode .standard 0x310000 = .ok .getMin ∧ decode .standard 0x320000 = .ok .getHour ∧
    decode .standard 0x330000 = .ok .getDay ∧ decode .standard 0x340000 = .ok .getDate ∧ decode .standard 0x350000 = .ok .getMon ∧
    decode .standard 0x360000 = .ok .getYr ∧ decode .standard 0x370000 = .ok .getYear := by decide

theorem test_decode_set :
    decode .standard 0x40001E = .ok (.setSec 30) ∧ decode .standard 0x41002D = .ok (.setMin 45) ∧ decode .standard 0x420017 = .ok (.setHour 23) ∧
    decode .standard 0x430005 = .ok (.setDay 5) ∧ decode .standard 0x44001D = .ok (.setDate 29) ∧ decode .standard 0x45000D = .ok (.setMon 13) ∧
    decode .standard 0x460064 = .ok (.setYr 100) ∧ decode .standard 0x4707E8 = .ok (.setYear 2024) := by decide

theorem test_decode_run_and_bus :
    decode .standard 0x500000 = .ok .start ∧ decode .standard 0x510000 = .ok .stop ∧ decode .standard 0x51FFFF = .ok .stop ∧
    decode .standard 0x600002 = .ok (.rdb 0x02) ∧ decode .standard 0x60FF22 = .ok (.rdb 0x22) ∧ decode .standard 0x614501 = .ok (.wrb 0x01 0x45) ∧
    decode .standard 0x619202 = .ok (.wrb 0x02 0x92) := by decide

/-- The edges of every empty range of R113 (a). -/
theorem test_decode_refuses_unassigned :
    [0x07, 0x0F, 0x17, 0x1F, 0x22, 0x2F, 0x38, 0x3F, 0x48, 0x4F, 0x52, 0x5F, 0x62, 0x70, 0xFF].all (fun op : Byte =>
      decide (decode .standard (word op 0 0) = .error (.unassignedOp op))) = true := by decide

theorem test_decode_refuses_addresses :
    decode .standard 0x60000A = .error (.notARegister 0x0A) ∧ decode .standard 0x60001F = .error (.notARegister 0x1F) ∧
    decode .standard 0x61FF23 = .error (.notARegister 0x23) := by decide

theorem test_decodeTableWord_numbers_the_word_from_bit_0 :
    decodeTableWord 24 0x41002D = some (.setMin 45) ∧ decodeTableWord 24 0x070000 = none := by decide

/-! ### One step on a small state -/

/-- A block at reset with the registers `m`, the environment `env` and the one command `w`. -/
def cmd (w : Command) (m : Memory) (env : List EnvMove) : State :=
  { State.reset with host := [.command w], reg := m, env := env }

/-- The state after the step. -/
def after (s : State) : State :=
  match step s with
  | .next t => t
  | .fault _ => s
  | .refused _ => s

/-- What the ports show in the step. -/
def shown (w : Command) (m : Memory) : List PortEvent := (after (cmd w m [])).port

/-- A transaction of the vectors' trace, `R a -> v` and `W a <- v`. -/
def rd (a v : Byte) : List PortEvent := [.write 0xD0 [a] true true, .read 0xD0 (some v)]
def wr (a v : Byte) : List PortEvent := [.write 0xD0 [a, v] false true]
def ok (n : BitVec 16) : List PortEvent := [.result (.ok n 0 false)]

/-! Vectors 2.1 and 2.2. -/

theorem test_decSec : shown 0x0000D9 [] = ok 59 ∧ shown 0x0000FF [] = ok 85 := by decide
theorem test_decMin : shown 0x01001A [] = ok 20 ∧ shown 0x010099 [] = ok 19 := by decide
theorem test_decHour : shown 0x0200E3 [] = ok 23 ∧ shown 0x02007F [] = ok 45 := by decide
theorem test_decDay : shown 0x0300FB [] = ok 3 ∧ shown 0x030009 [] = ok 1 := by decide
theorem test_decDate : shown 0x0400A5 [] = ok 25 ∧ shown 0x0400FF [] = ok 45 := by decide
theorem test_decMon : shown 0x050031 [] = ok 11 ∧ shown 0x0500FF [] = ok 25 := by decide
theorem test_decYr : shown 0x060080 [] = ok 80 ∧ shown 0x0600FF [] = ok 165 := by decide
theorem test_encSec : shown 0x109207 [] = ok 0x87 ∧ shown 0x10FFFF [] = ok 0x95 := by decide
theorem test_encMin : shown 0x11803B [] = ok 0x59 ∧ shown 0x11FFFF [] = ok 0x15 := by decide
theorem test_encHour : shown 0x12C017 [] = ok 0xE3 ∧ shown 0x12803B [] = ok 0x99 := by decide
theorem test_encDay : shown 0x13FF09 [] = ok 0x01 := by decide
theorem test_encDate : shown 0x144028 [] = ok 0x00 ∧ shown 0x14804B [] = ok 0x35 := by decide
theorem test_encMon : shown 0x15001F [] = ok 0x11 ∧ shown 0x150017 [] = ok 0x03 := by decide
theorem test_encYr : shown 0x160064 [] = ok 0xA0 ∧ shown 0x16FFFF [] = ok 0x95 := by decide

/-! Vectors 2.3. -/

theorem test_decYear : shown 0x200123 [] = ok 2123 ∧ shown 0x2000A5 [] = ok 2105 := by decide

theorem test_decYear_truncates :
    (after { cmd 0x200199 [] [] with baseline := 65500 }).port = ok 163 := by decide

theorem test_prepYear_backward :
    shown 0x2107CF [] = [.result (.ok 1900 99 true)] ∧ (after (cmd 0x2107CF [] [])).baseline = 1900 := by decide

theorem test_prepYear_same_century :
    shown 0x210833 [] = [.result (.ok 2000 99 false)] ∧ (after (cmd 0x210833 [] [])).baseline = 2000 := by decide

/-! Vectors 2.4. -/

theorem test_start : shown 0x500000 [(0, 0xD9)] = rd 0 0xD9 ++ wr 0 0x59 ++ ok 0 ∧
    (after (cmd 0x500000 [(0, 0xD9)] [])).reg = [(0, 0x59)] := by decide
theorem test_start_writes_an_unchanged_byte : shown 0x500000 [] = rd 0 0 ++ wr 0 0 ++ ok 0 := by decide
theorem test_stop : shown 0x510000 [(0, 0x7F)] = rd 0 0x7F ++ wr 0 0xFF ++ ok 0 ∧
    (after (cmd 0x510000 [(0, 0x7F)] [])).reg = [(0, 0xFF)] := by decide

/-! Vectors 2.5. -/

/-- The start state of 2.5. -/
def getRegs : Memory := [(0, 0xD9), (1, 0xC5), (2, 0x92), (3, 0xFB), (4, 0xF1), (5, 0xF2), (6, 0x99)]

theorem test_getSec : shown 0x300000 getRegs = rd 0 0xD9 ++ ok 59 := by decide
theorem test_getMin : shown 0x310000 getRegs = rd 1 0xC5 ++ ok 45 := by decide
theorem test_getHour : shown 0x320000 getRegs = rd 2 0x92 ++ ok 12 := by decide
theorem test_getDay : shown 0x330000 getRegs = rd 3 0xFB ++ ok 3 := by decide
/-- Code 3 is Tuesday under R99's table. -/
theorem test_getDay_names_the_day :
    State.reset.namedDay (.ok 3 0 false) = some .tuesday ∧ DayCodes.standard.wf := by decide
theorem test_getDate : shown 0x340000 getRegs = rd 4 0xF1 ++ ok 31 := by decide
theorem test_getMon : shown 0x350000 getRegs = rd 5 0xF2 ++ ok 12 := by decide
theorem test_getYr : shown 0x360000 getRegs = rd 6 0x99 ++ ok 99 := by decide
theorem test_getYear : shown 0x370000 getRegs = rd 6 0x99 ++ rd 2 0x92 ++ ok 2199 := by decide

/-! Vectors 2.6. -/

theorem test_setSec : shown 0x40001E [(0, 0x80)] = rd 0 0x80 ++ wr 0 0xB0 ++ ok 0 := by decide
theorem test_setMin : shown 0x41002D [(1, 0xFF)] = wr 1 0x45 ++ ok 0 ∧
    (after (cmd 0x41002D [(1, 0xFF)] [])).reg = [(1, 0x45)] := by decide
theorem test_setHour : shown 0x42000C [(2, 0xD9)] = rd 2 0xD9 ++ wr 2 0xD2 ++ ok 0 := by decide
theorem test_setDay : shown 0x430005 [(3, 0xFF)] = wr 3 0x05 ++ ok 0 := by decide
theorem test_setDay_unset_removes_the_entry : (after (cmd 0x430000 [(3, 0x05)] [])).reg = [] := by decide
theorem test_setDate : shown 0x44001D [(4, 0xFF)] = wr 4 0x29 ++ ok 0 := by decide
theorem test_setMon : shown 0x45000D [(5, 0x02)] = wr 5 0x13 ++ ok 0 := by decide
theorem test_setYr : shown 0x460064 [(6, 0x23)] = wr 6 0xA0 ++ ok 0 := by decide

/-- Program P2, step 2. -/
theorem test_setYear_new_century :
    shown 0x470834 [(2, 0x92), (6, 0x99)] = rd 2 0x92 ++ wr 2 0x12 ++ wr 6 0x00 ++ [.result (.ok 2100 0 true)] ∧
    (after (cmd 0x470834 [(2, 0x92), (6, 0x99)] [])).reg = [(2, 0x12)] ∧
    (after (cmd 0x470834 [(2, 0x92), (6, 0x99)] [])).baseline = 2100 := by decide

/-- The same-century vector at the end of 2.6. -/
theorem test_setYear_same_century :
    shown 0x4707E8 [(2, 0x92), (6, 0x50)] = wr 6 0x24 ++ [.result (.ok 2000 24 false)] := by decide

/-! Vectors 2.7. -/

theorem test_rdb : shown 0x600022 [(0x22, 0x5A)] = rd 0x22 0x5A ++ ok 0x5A := by decide
theorem test_wrb : shown 0x618000 [] = wr 0 0x80 ++ ok 0 ∧
    (after (cmd 0x618000 [] [])).runState = .halted := by decide
/-- Under another map the transport carries that map's address (R73), and R61's address names nothing (R112). -/
theorem test_wrb_follows_the_map :
    let s := cmd 0x614540 [] []
    let t := after { s with params := { s.params with addresses := otherMap } }
    t.port = wr 0x40 0x45 ++ ok 0 ∧ t.readReg .minutes = 0x45 := by decide
theorem test_rdb_of_an_address_the_map_lacks :
    let s := cmd 0x600001 [] []
    (after { s with params := { s.params with addresses := otherMap } }).port = [.result .illegalCommand] := by decide
theorem test_illegal_command :
    shown 0x60000A getRegs = [.result .illegalCommand] ∧ shown 0x700000 getRegs = [.result .illegalCommand] ∧
    (after (cmd 0x61FF23 getRegs [])).reg = getRegs := by decide

/-! Vectors 2.8 and program P3. -/

theorem test_getSec_fails_in_its_data_phase :
    (after (cmd 0x300000 getRegs [.answer true, .answer false])).port =
      [.write 0xD0 [0] true true, .read 0xD0 none, .result .transportError] := by decide

theorem test_start_fails_in_its_read :
    (after (cmd 0x500000 getRegs [.answer false])).port =
      [.write 0xD0 [0] true false, .result .transportError] := by decide

theorem test_setYear_fails_after_the_baseline_moved :
    let t := after (cmd 0x470834 getRegs [.answer true, .answer true, .answer false])
    t.port = rd 2 0x92 ++ [.write 0xD0 [2, 0x12] false false, .result .transportError] ∧ t.baseline = 2100 := by decide

/-! The peripheral (R50) and reset (R260). -/

/-- A tick to 12:00:01 of 1 January of a short year 0, with the century carry. -/
def rollover : Tick where
  sec := 0x01
  min := 0x00
  hour := 0x12
  day := 0x05
  date := 0x01
  month := 0x01
  year := 0x00
  carry := true

/-- R269: the carry between the two reads of `GET.YEAR` gives 2199 for 2099. -/
theorem test_getYear_torn_by_a_carry :
    (after (cmd 0x370000 [(2, 0x12), (6, 0x99)] [.answer true, .answer true, .tick rollover])).port =
      rd 6 0x99 ++ rd 2 0x92 ++ ok 2199 := by decide

/-- R267 (a): the carry between the read and the write of `SET.HOUR` is lost. -/
theorem test_setHour_loses_a_carry :
    (after (cmd 0x420007 [(2, 0x12), (6, 0x99)] [.answer true, .answer true, .tick rollover])).reg =
      [(0, 0x01), (2, 0x07), (3, 0x05), (4, 0x01), (5, 0x01)] := by decide

/-- R48: a halted clock does not tick. -/
theorem test_halted_clock_does_not_tick :
    (after (cmd 0x300000 [(0, 0x80)] [.tick rollover])).port = rd 0 0x80 ++ ok 0 := by decide

/-- P5: reset brings `baseline` back and touches no register. -/
theorem test_reset_of_an_idle_block :
    let t := after { State.reset with baseline := 2100, reg := [(2, 0x12), (6, 0x05)], host := [.reset] }
    t.baseline = 2000 ∧ t.reg = [(2, 0x12), (6, 0x05)] ∧ t.port = [] := by decide

/-- A block whose host issues `w` and resets it after `calls` calls; the century last set is 2100. -/
def cut (w : Command) (calls : Nat) (inFlight : Bool) (m : Memory) (env : List EnvMove) : State :=
  { cmd 0 m env with host := [.cutShort w calls inFlight], baseline := 2100 }

/-- R262: the read of `START` stands, its write is never made, no bundle. -/
theorem test_reset_inside_start :
    let t := after (cut 0x500000 2 false [(0, 0xD9)] [])
    t.port = rd 0 0xD9 ∧ t.reg = [(0, 0xD9)] ∧ t.baseline = 2000 ∧ t.host = [] := by decide

/-- R262: the CentHours write of `SET.YEAR 1999` stands, its Year write is in flight. -/
theorem test_reset_inside_setYear :
    let t := after (cut 0x4707CF 3 true [(2, 0x92), (6, 0x99)] [])
    t.port = rd 2 0x92 ++ wr 2 0x12 ++ [.cutWrite 0xD0 [6, 0x99] false] ∧ t.baseline = 2000 := by decide

theorem test_reset_with_a_data_phase_in_flight :
    (after (cut 0x310000 1 true getRegs [])).port = [.write 0xD0 [1] true true, .cutRead 0xD0] := by decide

/-- An operation that makes no call is reset before its bundle. -/
theorem test_reset_inside_prepYear :
    (after (cut 0x2107CF 0 true [] [])).port = [] ∧ (after (cut 0x2107CF 0 true [] [])).baseline = 2000 := by decide

theorem test_withFetchWord_is_the_next_command :
    (State.reset.withFetchWord 24 0x41002D).host = [.command 0x41002D] := by decide

/-! ### Witnesses: states and operands that meet the hypotheses of the statements -/

/-- A busy environment: the peripheral ticks before each call and every call is answered OK. -/
def busy : List EnvMove :=
  [.tick rollover, .answer true, .tick rollover, .answer true, .answer true, .answer true]

theorem witness_WellFormedInstructionDecodesBackFromItsWord :
    (Instr.rdb 0x22).wf .standard = true ∧ (Instr.wrb 0x09 0xFF).wf .standard = true ∧ (Instr.decYear 0xFF true).wf .standard = true ∧
    (Instr.setYear 65535).wf .standard = true := by decide

theorem witness_DecodedInstructionReencodesLessReservedBits :
    decode .standard 0x20FF23 = .ok (.decYear 0x23 true) ∧ encode (.decYear 0x23 true) = 0x200123 ∧
    decode .standard 0x30FFFF = .ok .getSec ∧ encode .getSec = 0x300000 := by decide

theorem witness_WordsThatSpellNoOperation :
    decode .standard 0x0F0000 = .error (.unassignedOp 0x0F) ∧ decode .standard 0x61FF23 = .error (.notARegister 0x23) := by decide

theorem witness_StepRunsTheDecodedCommand :
    (cmd 0x4707E8 getRegs busy).host = .command 0x4707E8 :: [] ∧ decode .standard 0x4707E8 = .ok (.setYear 2024) := by decide

theorem witness_IllegalWordChangesNothing :
    (cmd 0xFFFFFF getRegs busy).host = .command 0xFFFFFF :: [] ∧ decode .standard 0xFFFFFF = .error (.unassignedOp 0xFF) := by decide

theorem witness_ResetWritesOnlyBaseline :
    { cmd 0 getRegs busy with host := [.reset, .command 0x370000] }.host = .reset :: [.command 0x370000] := by decide

theorem witness_IdleBlockDoesNothing : State.reset.host = [] := by decide

theorem witness_CommandsAreTakenInHostOrder : ∃ t, step (cmd 0x470834 getRegs [.answer false]) = .next t := ⟨_, rfl⟩

/-- A running clock, an answered call and a failing one, and registers listed. -/
theorem witness_EveryStepKeepsTheInvariant :
    (cmd 0x470834 getRegs [.answer true, .answer false]).Inv ∧
    ∃ t, step (cmd 0x470834 getRegs [.answer true, .answer false]) = .next t := ⟨by decide, _, rfl⟩

/-- Halted; running without a carry; running with the first carry. -/
theorem witness_PeripheralStepStaysInItsEnvelope :
    haltBit ((cmd 0 getRegs []).readReg .seconds) = true ∧
    (haltBit ((cmd 0 [(0, 0x59)] []).readReg .seconds) = false ∧ { rollover with carry := false }.carry = false) ∧
    (rollover.carry = true ∧ centBit ((cmd 0 [(0, 0x59)] []).readReg .centHours) = false) := by decide

theorem witness_HaltedClockHoldsEveryRegister : (cmd 0x300000 getRegs busy).runState = .halted := by decide

/-- Each field at the last value that round-trips and at the first that does not (R132). -/
theorem witness_DecodeUndoesEncodeExactlyWhereTensFit :
    decodeField .sec (encodeField .sec 79 0xFF) = 79 ∧ decodeField .sec (encodeField .sec 80 0xFF) = 0 ∧
    decodeField .min (encodeField .min 79 0) = 79 ∧ decodeField .min (encodeField .min 80 0) = 0 ∧
    decodeField .hour (encodeField .hour 39 0xFF) = 39 ∧ decodeField .hour (encodeField .hour 40 0xFF) = 0 ∧
    decodeField .date (encodeField .date 39 0) = 39 ∧ decodeField .date (encodeField .date 40 0) = 0 ∧
    decodeField .mon (encodeField .mon 19 0) = 19 ∧ decodeField .mon (encodeField .mon 20 0) = 0 ∧
    decodeField .yr (encodeField .yr 159 0) = 159 ∧ decodeField .yr (encodeField .yr 160 0) = 0 := by decide

theorem witness_EncodePreservesTheControlBits :
    BcdField.sec.row.discipline = .readModifyWrite ∧ BcdField.hour.row.discipline = .readModifyWrite := by decide

/-- A table that is not R99's: Monday first, Unset last. -/
def otherDays : DayCodes :=
  ⟨7, 6, 0, 1, 2, 3, 4, 5⟩

theorem witness_DayCodesCoverTheField : otherDays.wf := by decide

theorem witness_PrepYearAdoptsTheCentury :
    (2100 : Year).toNat / 100 * 100 ≠ State.reset.baseline.toNat ∧
    (2099 : Year).toNat / 100 * 100 = State.reset.baseline.toNat := by decide

theorem witness_OnlyPrepYearAndSetYearWriteBaseline :
    (∃ t, exec (.setYear 2100) (cmd 0 getRegs [.answer false]) = .next t) ∧
    (∃ t, exec (.prepYear 2100) State.reset = .next t) ∧ (∃ t, exec .stop State.reset = .next t) :=
  ⟨⟨_, rfl⟩, ⟨_, rfl⟩, ⟨_, rfl⟩⟩

/-- All three calls answered; the address phase failed; the data phase failed; the write failed. -/
theorem witness_StartClearsHaltByReadModifyWrite :
    answersOk 3 (cmd 0 getRegs busy).env = true ∧ answersOk 2 (cmd 0 getRegs [.answer false]).env = false ∧
    answersOk 2 (cmd 0 getRegs [.answer true, .answer false]).env = false ∧
    answersOk 3 (cmd 0 getRegs [.answer true, .answer true, .answer false]).env = false := by decide

theorem witness_StopSetsHaltByReadModifyWrite :
    answersOk 3 (cmd 0 [(0, 0x59)] busy).env = true ∧ answersOk 2 (cmd 0 [(0, 0x59)] [.answer false]).env = false ∧
    answersOk 3 (cmd 0 [(0, 0x59)] [.answer true, .answer true, .answer false]).env = false := by decide

theorem witness_StartRunsAndStopHalts : answersOk 3 (cmd 0 [(0, 0x59)] busy).env = true := by decide

/-- Eight answered calls, no tick among them. -/
def calm : List EnvMove :=
  [.answer true, .answer true, .answer true, .answer true, .answer true, .answer true, .answer true, .answer true]

theorem witness_StartAndStopAreIdempotent :
    quiet 6 (cmd 0 getRegs calm).env = true ∧ Instr.start ∈ [Instr.start, .stop] ∧ Instr.stop ∈ [Instr.start, .stop] := by
  decide

theorem witness_StartKeepsTheSeconds : quiet 5 (cmd 0 getRegs calm).env = true := by decide

theorem witness_GetOperationsDecodeOneRegister :
    answersOk 2 (cmd 0 getRegs busy).env = true ∧ answersOk 2 (cmd 0 getRegs [.answer true, .answer false]).env = false := by
  decide

theorem witness_GetYearReadsYearThenCentHours :
    answersOk 4 (cmd 0 getRegs busy).env = true ∧
    answersOk 4 (cmd 0 getRegs [.answer true, .answer true, .answer true, .answer false]).env = false ∧
    answersOk 2 (cmd 0 getRegs [.answer true, .answer false]).env = false := by decide

theorem witness_SetSecAndSetHourPreserveControlBits :
    answersOk 3 (cmd 0 getRegs busy).env = true ∧ answersOk 2 (cmd 0 getRegs [.answer false]).env = false ∧
    answersOk 3 (cmd 0 getRegs [.answer true, .answer true, .answer false]).env = false := by decide

theorem witness_DirectSetsWriteOneByte :
    answersOk 1 (cmd 0 getRegs busy).env = true ∧ answersOk 1 (cmd 0 getRegs [.answer false]).env = false := by decide

/-- Same century and both answers; another century, all answered, the read failed, the last write failed. -/
theorem witness_SetYearConsultsTheTrackerThenWrites :
    ((2024 : Year).toNat / 100 * 100 = (cmd 0 getRegs busy).baseline.toNat ∧ answersOk 1 (cmd 0 getRegs busy).env = true) ∧
    ((2099 : Year).toNat / 100 * 100 = State.reset.baseline.toNat ∧ answersOk 1 [.answer false] = false) ∧
    ((2100 : Year).toNat / 100 * 100 ≠ (cmd 0 getRegs busy).baseline.toNat ∧ answersOk 4 (cmd 0 getRegs busy).env = true) ∧
    ((1999 : Year).toNat / 100 * 100 ≠ State.reset.baseline.toNat ∧ answersOk 2 [.answer false] = false) ∧
    ((65535 : Year).toNat / 100 * 100 ≠ State.reset.baseline.toNat ∧
      answersOk 4 [.answer true, .answer true, .answer true, .answer false] = false) := by decide

/-- Every pair at the greatest value of its range. -/
theorem witness_SetThenGetReturnsTheValue :
    quiet 5 (cmd 0 getRegs calm).env = true ∧ (79 : Byte).toNat ≤ 79 ∧ (39 : Byte).toNat ≤ 39 ∧ (7 : Byte).toNat ≤ 7 ∧
    (19 : Byte).toNat ≤ 19 ∧ (159 : Byte).toNat ≤ 159 := by decide

/-- Both sides of the exception of R276: the century of `baseline` with CENT 1, and another century. -/
theorem witness_GetYearAfterSetYear :
    quiet 8 (cmd 0 getRegs calm).env = true ∧ (2050 : Year).toNat / 100 * 100 = (cmd 0 getRegs calm).baseline.toNat ∧
    centBit ((cmd 0 getRegs calm).readReg .centHours) = true ∧
    (2100 : Year).toNat / 100 * 100 ≠ (cmd 0 getRegs calm).baseline.toNat := by decide

theorem witness_SetDayThenGetDayNamesTheDay :
    (cmd 0 getRegs calm).params.dayCodes.wf ∧ quiet 3 (cmd 0 getRegs calm).env = true := by decide

theorem witness_CenturyChangeMakesThePairConsistent :
    quiet 4 (cmd 0 getRegs calm).env = true ∧ (2100 : Year).toNat / 100 * 100 ≠ (cmd 0 getRegs calm).baseline.toNat := by
  decide

theorem witness_RetriedSetYearSkipsTheOverflowClear :
    (2100 : Year).toNat / 100 * 100 ≠ (cmd 0 getRegs [.answer false, .answer true]).baseline.toNat ∧
    answersOk 4 (cmd 0 getRegs [.answer false, .answer true]).env = false ∧
    ∃ t, exec (.setYear 2100) (cmd 0 getRegs [.answer false, .answer true]) = .next t ∧ answersOk 1 t.env = true :=
  ⟨by decide, by decide, _, rfl, by decide⟩

theorem witness_ResetForgetsTheCentury :
    let s := { State.reset with baseline := 2100, reg := [(2, 0x12), (6, 0x05)], host := [.reset, .command 0x370000] }
    s.host = .reset :: .command 0x370000 :: [] ∧ s.env = [] := by decide

theorem witness_RdbReturnsTheByte :
    (cmd 0 getRegs busy).params.addresses.wf ∧
    answersOk 2 (cmd 0 getRegs busy).env = true ∧ answersOk 2 (cmd 0 getRegs [.answer false]).env = false ∧
    (∀ r, State.reset.params.addresses.addr r ≠ 0x0A) ∧ (∀ r, State.reset.params.addresses.addr r ≠ 0x1F) :=
  ⟨by decide, by decide, by decide, fun r => by cases r <;> decide, fun r => by cases r <;> decide⟩

theorem witness_WrbWritesTheByteAsGiven :
    (cmd 0 getRegs busy).params.addresses.wf ∧
    answersOk 1 (cmd 0 getRegs busy).env = true ∧ answersOk 1 (cmd 0 getRegs [.answer false]).env = false ∧
    (∀ r, State.reset.params.addresses.addr r ≠ 0x23) ∧ (∀ r, State.reset.params.addresses.addr r ≠ 0xFF) :=
  ⟨by decide, by decide, by decide, fun r => by cases r <;> decide, fun r => by cases r <;> decide⟩

theorem witness_DirectSetIsEncodeThenWrb : (cmd 0 getRegs busy).params.addresses.wf := by decide

theorem witness_GetIsRdbThenDecode :
    (cmd 0 getRegs busy).params.addresses.wf ∧ answersOk 2 (cmd 0 getRegs busy).env = true := by decide

theorem witness_ReadReturnsTheLatestWrite : quiet 3 (cmd 0 getRegs calm).env = true := by decide

/-- An address outside the map; every call answered; the last of the calls failed; no call made. -/
theorem witness_EveryCommandEndsInItsOutcome :
    (Instr.wrb 0x23 0).wf .standard = false ∧
    ((Instr.setYear 2100).wf .standard = true ∧ answersOk (callCount (.setYear 2100) (cmd 0 getRegs busy)) busy = true) ∧
    ((Instr.setYear 2100).wf .standard = true ∧ answersOk (callCount (.setYear 2100) (cmd 0 getRegs busy))
      [.answer true, .answer true, .answer true, .answer false] = false) ∧
    ((Instr.decSec 0).wf .standard = true ∧ answersOk (callCount (.decSec 0) (cmd 0 getRegs busy)) [.answer false] = true) := by decide

theorem witness_EveryCallIsASingleByteTransaction : ∃ t, exec .getYear (cmd 0 getRegs busy) = .next t := ⟨_, rfl⟩

theorem witness_OperationsWriteOnlyTheirRegisters :
    quiet 4 (cmd 0 getRegs calm).env = true ∧
    (∀ r : Register, mayWrite (cmd 0 getRegs calm) (.setYear 2100) r = true → r.key ≠ 0x04) ∧
    (∀ r : Register, mayWrite (cmd 0 getRegs calm) (.setYear 2099) r = true → r.key ≠ 0x02) :=
  ⟨by decide, fun r => by cases r <;> decide, fun r => by cases r <;> decide⟩

theorem witness_TimeFieldWritesPreserveControlBits : quiet 4 (cmd 0 getRegs calm).env = true := by decide

theorem witness_CompletedOperationsReleaseTheBus :
    (cmd 0 getRegs busy).busHeld = false ∧
    ∃ t, exec .getYear (cmd 0 getRegs busy) = .next t ∧ ∃ res aux flag, t.port.getLast? = some (.result (.ok res aux flag)) :=
  ⟨by decide, _, rfl, _, _, _, rfl⟩

/-- Every call before the reset answered; the reset after the last call; no call at all. -/
theorem witness_ResetDuringACommandAbandonsIt :
    (cut 0x4707CF 3 true getRegs busy).host = .cutShort 0x4707CF 3 true :: [] ∧
    decode .standard 0x4707CF = .ok (.setYear 1999) ∧
    answersOk (min 3 (callCount (.setYear 1999) (cut 0x4707CF 3 true getRegs busy))) busy = true ∧
    answersOk (min 9 (callCount .start (cut 0x500000 9 true getRegs busy))) busy = true ∧
    answersOk (min 9 (callCount (.decSec 0) (cut 0x000000 9 true getRegs busy))) [.answer false] = true := by decide

theorem witness_ResetAfterAFailedCallFindsTheBlockIdle :
    (cut 0x500000 3 false getRegs [.answer true, .answer false]).host = .cutShort 0x500000 3 false :: [] ∧
    decode .standard 0x500000 = .ok .start ∧
    answersOk (min 3 (callCount .start ((cut 0x500000 3 false getRegs [.answer true, .answer false]).ticks.setHost [])))
      ((cut 0x500000 3 false getRegs [.answer true, .answer false]).ticks.setHost []).env = false := by decide

/-- With the write of `SET.MIN` in flight Minutes is open and Seconds is not; between the two phases of `GET.MIN` likewise. -/
theorem witness_CompletedTransactionsStandAfterAReset :
    (cut 0x41002D 0 true getRegs calm).host = .cutShort 0x41002D 0 true :: [] ∧
    decode .standard 0x41002D = .ok (.setMin 45) ∧ (cut 0x41002D 0 true getRegs calm).params.addresses.wf ∧
    quiet 1 (cut 0x41002D 0 true getRegs calm).env = true ∧
    ¬ inTransaction (cut 0x41002D 0 true getRegs calm) .seconds (wr 1 0x45) 0 true ∧
    ¬ inTransaction (cut 0x310000 1 false getRegs calm) .seconds (rd 1 0xC5) 1 false :=
  ⟨by decide, by decide, by decide, by decide, by simp [inTransaction, wr]; decide, by simp [inTransaction, rd]; decide⟩

theorem witness_ResetInsideSetYearKeepsItsOverflowClear :
    (cut (wordYear 0x47 1999) 3 false getRegs busy).host = .cutShort (wordYear 0x47 1999) 3 false :: [] ∧
    (1999 : Year).toNat / 100 * 100 ≠ (cut (wordYear 0x47 1999) 3 false getRegs busy).baseline.toNat ∧
    answersOk 3 (cut (wordYear 0x47 1999) 3 false getRegs busy).env = true := by decide

end Sys2Proof.Tests
end

section
/-! PROOF. Settles the statements of the scope: a step answers a next state in every case of the host's next move
(R9, R232, R239), and every command ends in one bundle after the transactions of R280. -/

namespace Sys2Proof.Machine

/-! ### A step, one equation per move of the host -/

theorem step_idle {s : State} (h : s.host = []) : step s = .next s.ticks := by
  simp [step, takeHostMove, h]

theorem step_reset {s : State} {rest : List HostMove} (h : s.host = .reset :: rest) :
    step s = .next (resetBlock (s.ticks.setHost rest)) := by
  simp [step, takeHostMove, h]

theorem step_command_ok {s : State} {w : Command} {rest : List HostMove} {i : Instr}
    (h : s.host = .command w :: rest) (hd : decode s.params.addresses w = .ok i) :
    step s = exec i (s.ticks.setHost rest) := by
  simp [step, takeHostMove, h, hd]

theorem step_command_error {s : State} {w : Command} {rest : List HostMove} {e : Reject}
    (h : s.host = .command w :: rest) (hd : decode s.params.addresses w = .error e) :
    step s = .next (illegalCommand (s.ticks.setHost rest)) := by
  simp [step, takeHostMove, h, hd]

theorem step_cutShort_ok {s : State} {w : Command} {calls : Nat} {inFlight : Bool} {rest : List HostMove} {i : Instr}
    (h : s.host = .cutShort w calls inFlight :: rest) (hd : decode s.params.addresses w = .ok i) :
    step s = .next (cutCommand i calls inFlight (s.ticks.setHost rest)) := by
  simp [step, takeHostMove, h, hd]

theorem step_cutShort_error {s : State} {w : Command} {calls : Nat} {inFlight : Bool} {rest : List HostMove} {e : Reject}
    (h : s.host = .cutShort w calls inFlight :: rest) (hd : decode s.params.addresses w = .error e) :
    step s = .next (resetBlock (illegalCommand (s.ticks.setHost rest))) := by
  simp [step, takeHostMove, h, hd]

/-- No move of the host stops the machine; `exec` answers a next state because it runs a plan. -/
theorem step_next (s : State) : ∃ t, step s = .next t := by
  cases h : s.host with
  | nil => exact ⟨_, step_idle h⟩
  | cons move rest =>
    cases move with
    | reset => exact ⟨_, step_reset h⟩
    | command w =>
      cases hd : decode s.params.addresses w with
      | ok i => exact ⟨_, (step_command_ok h hd).trans (exec_eq_run i _)⟩
      | error e => exact ⟨_, step_command_error h hd⟩
    | cutShort w calls inFlight =>
      cases hd : decode s.params.addresses w with
      | ok i => exact ⟨_, step_cutShort_ok h hd⟩
      | error e => exact ⟨_, step_cutShort_error h hd⟩

/-! ### Answers, bundles and the tracker -/

theorem answersOk_succ (n : Nat) (e : List EnvMove) :
    answersOk (n + 1) e = (nextAnswer e && answersOk n (afterAnswer e)) := rfl

theorem answersOk_add_two (n : Nat) (e : List EnvMove) :
    answersOk (n + 2) e = (answersOk 2 e && answersOk n (afterAnswer (afterAnswer e))) := by
  simp [answersOk, Bool.and_assoc]

@[simp] theorem commitBaseline_env (y : Year) (s : State) : (commitBaseline y s).env = s.env := by
  unfold commitBaseline; split <;> rfl

@[simp] theorem commitBaseline_port (y : Year) (s : State) : (commitBaseline y s).port = s.port := by
  unfold commitBaseline; split <;> rfl

theorem bundlesOf_append (c d : List PortEvent) : bundlesOf (c ++ d) = bundlesOf c ++ bundlesOf d := by
  induction c with
  | nil => rfl
  | cons e c ih => cases e <;> simp [bundlesOf, ih]

theorem centuryOf_toNat (y : Year) : (centuryOf y).toNat = y.toNat / 100 * 100 := by
  rw [centuryOf, BitVec.toNat_ofNat]
  have := y.isLt
  omega

theorem needsOverflowReset_eq_false_iff (s : State) (y : Year) :
    needsOverflowReset s y = false ↔ y.toNat / 100 * 100 = s.baseline.toNat := by
  rw [needsOverflowReset, bne_eq_false_iff_eq, ← BitVec.toNat_inj, centuryOf_toNat]

/-! ### Register access at an address of the map and outside it (R220 to R222) -/

theorem planRdb_register {a : Byte} {r : Register} {s : State} (h : s.params.addresses.ofAddr a = some r) :
    planRdb a s = getPlan r BitVec.toNat := by
  simp [planRdb, h]

theorem planRdb_outside {a : Byte} {s : State} (h : s.params.addresses.ofAddr a = none) :
    planRdb a s = .reply .illegalCommand := by
  simp [planRdb, h]

theorem planWrb_register {a : Byte} {r : Register} {s : State} (v : Byte) (h : s.params.addresses.ofAddr a = some r) :
    planWrb a v s = writePlan r v := by
  simp [planWrb, h]

theorem planWrb_outside {a : Byte} {s : State} (v : Byte) (h : s.params.addresses.ofAddr a = none) :
    planWrb a v s = .reply .illegalCommand := by
  simp [planWrb, h]

/-- Only `RDB` and `WRB` can fail to be well formed, and both then answer at once (R112, R222). -/
theorem planOf_not_wf {i : Instr} {s : State} (h : i.wf s.params.addresses = false) :
    planOf i s = .reply .illegalCommand := by
  cases i with
  | rdb a => exact planRdb_outside (by simpa [Instr.wf] using h)
  | wrb a v => exact planWrb_outside v (by simpa [Instr.wf] using h)
  | _ => cases h

end Sys2Proof.Machine

namespace Sys2Proof.Claims

open Sys2Proof.Machine

/-! ### Recorded calls -/

/-- The port events of `reads` `MemRead`s and `writes` `MemWrite`s, every call of which was answered OK (R71 to R73). -/
structure AnsweredCalls (calls : List PortEvent) (reads writes : Nat) : Prop where
  bundles : bundlesOf calls = []
  answered : calls.all answeredOk = true
  length : calls.length = 2 * reads + writes
  readCalls : calls.countP isReadCall = reads
  memWrites : calls.countP isMemWrite = writes
  writeCalls : calls.countP isWriteCall = reads + writes

/-- The port events of a sequence of calls that ends at the first one not answered OK, at most `most` in all (R235, R236). -/
structure FailedCalls (calls : List PortEvent) (most : Nat) : Prop where
  bundles : bundlesOf calls = []
  length : calls.length ≤ most
  failed : ∃ made failed, calls = made ++ [failed] ∧ made.all answeredOk = true ∧ answeredOk failed = false

theorem answeredCalls_nil : AnsweredCalls [] 0 0 := ⟨rfl, rfl, rfl, rfl, rfl, rfl⟩

theorem answeredCalls_read (device address v : Byte) :
    AnsweredCalls [.write device [address] true true, .read device (some v)] 1 0 := ⟨rfl, rfl, rfl, rfl, rfl, rfl⟩

theorem answeredCalls_write (device address v : Byte) :
    AnsweredCalls [.write device [address, v] false true] 0 1 := ⟨rfl, rfl, rfl, rfl, rfl, rfl⟩

theorem AnsweredCalls.append {c d : List PortEvent} {m n m' n' : Nat} (h : AnsweredCalls c m n)
    (k : AnsweredCalls d m' n') : AnsweredCalls (c ++ d) (m + m') (n + n') where
  bundles := by rw [bundlesOf_append, h.bundles, k.bundles, List.append_nil]
  answered := by rw [List.all_append, h.answered, k.answered, Bool.and_true]
  length := by rw [List.length_append, h.length, k.length]; omega
  readCalls := by rw [List.countP_append, h.readCalls, k.readCalls]
  memWrites := by rw [List.countP_append, h.memWrites, k.memWrites]
  writeCalls := by rw [List.countP_append, h.writeCalls, k.writeCalls]; omega

theorem AnsweredCalls.append_failed {c d : List PortEvent} {m n most : Nat} (h : AnsweredCalls c m n)
    (k : FailedCalls d most) : FailedCalls (c ++ d) (2 * m + n + most) where
  bundles := by rw [bundlesOf_append, h.bundles, k.bundles, List.append_nil]
  length := by rw [List.length_append, h.length]; exact Nat.add_le_add_left k.length _
  failed := by
    obtain ⟨made, failed, rfl, hm, hf⟩ := k.failed
    exact ⟨c ++ made, failed, (List.append_assoc ..).symm, by rw [List.all_append, h.answered, hm, Bool.and_true], hf⟩

theorem FailedCalls.mono {c : List PortEvent} {most most' : Nat} (h : FailedCalls c most) (le : most ≤ most') :
    FailedCalls c most' := ⟨h.bundles, h.length.trans le, h.failed⟩

theorem failedCalls_address (device address : Byte) : FailedCalls [.write device [address] true false] 1 :=
  ⟨rfl, le_rfl, [], _, rfl, rfl, rfl⟩

theorem failedCalls_data (device address : Byte) :
    FailedCalls [.write device [address] true true, .read device none] 2 := ⟨rfl, le_rfl, [_], _, rfl, rfl, rfl⟩

theorem failedCalls_write (device address v : Byte) : FailedCalls [.write device [address, v] false false] 1 :=
  ⟨rfl, le_rfl, [], _, rfl, rfl, rfl⟩

/-! ### The transactions of a plan -/

/-- A plan that makes `reads` `MemRead`s and `writes` `MemWrite`s, whatever bytes it reads, and then ends `OK`. -/
inductive Transacts : Plan → Nat → Nat → Prop
  | reply {b : Bundle} (ok : b.status = 0) : Transacts (.reply b) 0 0
  | finish {b : Bundle} (ok : b.status = 0) : Transacts (.finish b) 0 0
  | commit {p : Plan} {reads writes : Nat} (y : Year) (h : Transacts p reads writes) :
      Transacts (.commit y p) reads writes
  | read {next : Byte → Plan} {reads writes : Nat} (r : Register) (h : ∀ t, Transacts (next t) reads writes) :
      Transacts (.read r next) (reads + 1) writes
  | write {p : Plan} {reads writes : Nat} (r : Register) (v : Byte) (h : Transacts p reads writes) :
      Transacts (.write r v p) reads (writes + 1)

/-- The port gained answered calls and then a bundle with status `OK`. -/
def EndsOk (s t : State) (reads writes : Nat) : Prop :=
  ∃ calls b, t.port = s.port ++ calls ++ [.result b] ∧ b.status = 0 ∧ AnsweredCalls calls reads writes

/-- The port gained calls up to the first failed one and then `TransportError`. -/
def EndsFailed (s t : State) (most : Nat) : Prop :=
  ∃ calls, t.port = s.port ++ calls ++ [.result .transportError] ∧ FailedCalls calls most

theorem EndsOk.after {s t u : State} {calls : List PortEvent} {m n m' n' : Nat} (h : AnsweredCalls calls m n)
    (hp : t.port = s.port ++ calls) (k : EndsOk t u m' n') : EndsOk s u (m + m') (n + n') := by
  obtain ⟨rest, b, hu, hb, hrest⟩ := k
  exact ⟨calls ++ rest, b, by simp [hu, hp], hb, h.append hrest⟩

theorem EndsFailed.after {s t u : State} {calls : List PortEvent} {m n most : Nat} (h : AnsweredCalls calls m n)
    (hp : t.port = s.port ++ calls) (k : EndsFailed t u most) : EndsFailed s u (2 * m + n + most) := by
  obtain ⟨rest, hu, hrest⟩ := k
  exact ⟨calls ++ rest, by simp [hu, hp], h.append_failed hrest⟩

theorem endsFailed_abort {s t : State} {calls : List PortEvent} {most : Nat} (h : FailedFrom s calls t)
    (k : FailedCalls calls most) : EndsFailed s (abort t) most :=
  ⟨calls, by rw [abort, finish_port, h.port], k⟩

theorem Transacts.run_ok {p : Plan} {reads writes : Nat} (h : Transacts p reads writes) (s : State)
    (ok : answersOk (2 * reads + writes) s.env = true) : EndsOk s (p.run s) reads writes := by
  induction h generalizing s with
  | reply hb => exact ⟨[], _, by simp [deliver], hb, answeredCalls_nil⟩
  | finish hb => exact ⟨[], _, by simp, hb, answeredCalls_nil⟩
  | commit y _ ih => simpa [EndsOk] using ih (commitBaseline y s) (by simpa using ok)
  | @read next m n r _ ih =>
    rw [show 2 * (m + 1) + n = 2 * m + n + 2 by omega, answersOk_add_two, Bool.and_eq_true] at ok
    rw [Plan.run_read, readThen_ok ok.1, Nat.add_comm m 1, ← Nat.zero_add n]
    exact .after (answeredCalls_read _ _ _) (readDone_port r s) (ih _ _ ok.2)
  | @write p m n r v _ ih =>
    rw [← Nat.add_assoc, answersOk_succ, Bool.and_eq_true] at ok
    rw [Plan.run_write, writeThen_ok ok.1, Nat.add_comm n 1, ← Nat.zero_add m]
    exact .after (answeredCalls_write _ _ _) (writeDone_port r v s) (ih _ ok.2)

theorem Transacts.run_failed {p : Plan} {reads writes : Nat} (h : Transacts p reads writes) (s : State)
    (fails : answersOk (2 * reads + writes) s.env = false) : EndsFailed s (p.run s) (2 * reads + writes) := by
  induction h generalizing s with
  | reply _ => cases fails
  | finish _ => cases fails
  | commit y _ ih => simpa [EndsFailed] using ih (commitBaseline y s) (by simpa using fails)
  | @read next m n r _ ih =>
    have count : 2 * (m + 1) + n = 2 * m + n + 2 := by omega
    rw [count] at fails ⊢
    cases ok : answersOk 2 s.env with
    | true =>
      rw [answersOk_add_two, ok, Bool.true_and] at fails
      rw [Plan.run_read, readThen_ok ok, Nat.add_comm _ 2]
      exact .after (answeredCalls_read _ _ _) (readDone_port r s) (ih _ _ fails)
    | false =>
      obtain ⟨t, calls, ht, hfrom, hcalls⟩ := readThen_failed (r := r) (fun t s1 => (next t).run s1) ok
      rw [Plan.run_read, ht]
      refine endsFailed_abort hfrom ?_
      rcases hcalls with rfl | rfl
      · exact (failedCalls_address _ _).mono (by omega)
      · exact (failedCalls_data _ _).mono (by omega)
  | @write p m n r v _ ih =>
    rw [← Nat.add_assoc] at fails ⊢
    cases ok : nextAnswer s.env with
    | true =>
      rw [answersOk_succ, ok, Bool.true_and] at fails
      rw [Plan.run_write, writeThen_ok ok, Nat.add_comm _ 1]
      exact .after (answeredCalls_write _ _ _) (writeDone_port r v s) (ih _ fails)
    | false =>
      obtain ⟨t, ht, hfrom⟩ := writeThen_failed (r := r) (v := v) (fun s1 => p.run s1) ok
      rw [Plan.run_write, ht]
      exact endsFailed_abort hfrom ((failedCalls_write _ _ _).mono (by omega))

/-! ### The transactions of every instruction (R280) -/

theorem transacts_getPlan (r : Register) (f : Byte → Nat) : Transacts (getPlan r f) 1 0 :=
  .read r fun _ => .finish rfl

theorem transacts_writePlan (r : Register) (v : Byte) : Transacts (writePlan r v) 0 1 := .write r v (.finish rfl)

theorem transacts_modifyPlan {p : Plan} {reads writes : Nat} (r : Register) (f : Byte → Byte)
    (h : Transacts p reads writes) : Transacts (modifyPlan r f p) (reads + 1) (writes + 1) :=
  .read r fun _ => .write r _ h

theorem transacts_planSetYear (y : Year) (s : State) : Transacts (planSetYear y s)
    (transactionCount (.setYear y) s).1 (transactionCount (.setYear y) s).2 := by
  have writeYear : Transacts (.write .year (encodeField .yr (shortYearOf y).toNat 0) (.finish (yearBundle y s))) 0 1 :=
    .write _ _ (.finish rfl)
  refine .commit y ?_
  by_cases h : y.toNat / 100 * 100 = s.baseline.toNat
  · simpa [transactionCount, h, (needsOverflowReset_eq_false_iff s y).2 h] using writeYear
  · have hn : needsOverflowReset s y = true := by
      rw [← Bool.not_eq_false, needsOverflowReset_eq_false_iff]; exact h
    simpa [transactionCount, h, hn] using transacts_modifyPlan .centHours clearBit7 writeYear

theorem transacts_planOf {i : Instr} {s : State} (h : i.wf s.params.addresses = true) :
    Transacts (planOf i s) (transactionCount i s).1 (transactionCount i s).2 := by
  cases i with
  | decSec | decMin | decHour | decDay | decDate | decMon | decYr => exact .reply rfl
  | encSec | encMin | encHour | encDay | encDate | encMon | encYr => exact .reply rfl
  | decYear => exact .reply rfl
  | prepYear y => exact .commit y (.reply rfl)
  | getSec | getMin | getHour | getDay | getDate | getMon | getYr => exact transacts_getPlan _ _
  | getYear => exact .read _ fun _ => .read _ fun _ => .finish rfl
  | setSec | setHour | start | stop => exact transacts_modifyPlan _ _ (.finish rfl)
  | setMin | setDay | setDate | setMon | setYr => exact transacts_writePlan _ _
  | setYear y => exact transacts_planSetYear y s
  | rdb a =>
    obtain ⟨r, hr⟩ := Option.isSome_iff_exists.1 h
    rw [planOf, planRdb_register hr]
    exact transacts_getPlan r BitVec.toNat
  | wrb a v =>
    obtain ⟨r, hr⟩ := Option.isSome_iff_exists.1 h
    rw [planOf, planWrb_register v hr]
    exact transacts_writePlan r v

/-- A `MemRead` is two calls, a `MemWrite` is one (R72, R73). -/
theorem callCount_eq (i : Instr) (s : State) :
    callCount i s = 2 * (transactionCount i s).1 + (transactionCount i s).2 := by
  cases i with
  | setYear y => simp only [callCount, transactionCount]; split <;> rfl
  | _ => rfl

/-! ### The obligations -/

/-- Settles O8: the equation of a step for an empty host list. -/
theorem idleBlockDoesNothing : Obligations.IdleBlockDoesNothing := fun _ => step_idle

/-- Settles O10, by the cases of the host's next move. -/
theorem everyStepAnswersANextState : Obligations.EveryStepAnswersANextState := step_next

/-- Settles O44: what a plan shows on the port (`Transacts.run_ok`, `Transacts.run_failed`), for the plan of each
instruction. -/
theorem everyCommandEndsInItsOutcome : Obligations.EveryCommandEndsInItsOutcome := by
  intro i s
  rw [exec_eq_run, callCount_eq]
  cases hw : i.wf s.params.addresses with
  | false =>
    rw [planOf_not_wf hw]
    exact ⟨_, [], .illegalCommand, rfl, by simp [deliver], rfl, fun _ => ⟨rfl, rfl, rfl, rfl⟩, by simp, by simp⟩
  | true =>
    cases ok : answersOk (2 * (transactionCount i s).1 + (transactionCount i s).2) s.env with
    | true =>
      obtain ⟨calls, b, hport, hb, hc⟩ := (transacts_planOf hw).run_ok s ok
      refine ⟨_, calls, b, rfl, hport, hc.bundles, by simp, fun _ _ => ?_, by simp⟩
      exact ⟨hb, hc.answered, hc.length, hc.readCalls, hc.memWrites, hc.writeCalls⟩
    | false =>
      obtain ⟨calls, hport, hc⟩ := (transacts_planOf hw).run_failed s ok
      obtain ⟨made, failed, hcalls, hmade, hfailed⟩ := hc.failed
      refine ⟨_, calls, _, rfl, hport, hc.bundles, by simp, by simp, fun _ _ => ?_⟩
      exact ⟨rfl, made, failed, hcalls, hmade, hfailed, hc.length⟩

end Sys2Proof.Claims
end

section
/-! PROOF. Settles the statements of the state: the invariant and `baseline` (R20, R162), the peripheral's own steps (R48 to
R50), run control (R25), and the registers and control bits an operation leaves alone (R38, R39, R47). -/

namespace Sys2Proof.Machine

/-! ### The century tracker's write of `baseline` -/

@[simp] theorem commitBaseline_reg (y : Year) (s : State) : (commitBaseline y s).reg = s.reg := by
  unfold commitBaseline; split <;> rfl

@[simp] theorem commitBaseline_params (y : Year) (s : State) : (commitBaseline y s).params = s.params := by
  unfold commitBaseline; split <;> rfl

@[simp] theorem commitBaseline_busHeld (y : Year) (s : State) : (commitBaseline y s).busHeld = s.busHeld := by
  unfold commitBaseline; split <;> rfl

@[simp] theorem commitBaseline_readReg (y : Year) (s : State) (r : Register) :
    (commitBaseline y s).readReg r = s.readReg r := by
  simp [State.readReg]

/-- Whether `baseline` is written or not, it then holds the century. -/
@[simp] theorem commitBaseline_baseline (y : Year) (s : State) : (commitBaseline y s).baseline = centuryOf y := by
  unfold commitBaseline
  split
  · rfl
  · next h =>
    have same : centuryOf y = s.baseline := by simpa [needsOverflowReset] using h
    exact same.symm

theorem needsOverflowReset_eq_true_iff (s : State) (y : Year) :
    needsOverflowReset s y = true ↔ y.toNat / 100 * 100 ≠ s.baseline.toNat := by
  rw [← Bool.not_eq_false, ne_eq, needsOverflowReset_eq_false_iff]

/-! ### What a command leaves of the block's own state -/

/-- `baseline`, the construction arguments and the host's list stay, and the register space stays canonical. -/
structure KeepsBlock (s t : State) : Prop where
  baseline : t.baseline = s.baseline
  params : t.params = s.params
  host : t.host = s.host
  wf : s.reg.wf → t.reg.wf

theorem KeepsBlock.trans {s t u : State} (h : KeepsBlock s t) (k : KeepsBlock t u) : KeepsBlock s u :=
  ⟨k.baseline.trans h.baseline, k.params.trans h.params, k.host.trans h.host, fun w => k.wf (h.wf w)⟩

theorem keepsBlock_deliver (b : Bundle) (s : State) : KeepsBlock s (deliver b s) := ⟨rfl, rfl, rfl, id⟩

theorem keepsBlock_finish (b : Bundle) (s : State) : KeepsBlock s (finish b s) := ⟨rfl, rfl, rfl, id⟩

theorem keepsBlock_readDone (r : Register) (s : State) : KeepsBlock s (readDone r s) :=
  ⟨readDone_baseline r s, readDone_params r s, readDone_host r s, fun w => readDone_wf w r⟩

theorem keepsBlock_writeDone (r : Register) (v : Byte) (s : State) : KeepsBlock s (writeDone r v s) :=
  ⟨writeDone_baseline r v s, writeDone_params r v s, writeDone_host r v s, fun w => writeDone_wf w r v⟩

theorem keepsBlock_ticks (s : State) : KeepsBlock s s.ticks :=
  ⟨s.ticks_baseline, s.ticks_params, s.ticks_host, runTicks_wf s.env⟩

theorem FailedFrom.keepsBlock_abort {s t : State} {calls : List PortEvent} (h : FailedFrom s calls t) :
    KeepsBlock s (abort t) :=
  ⟨h.baseline, h.params, h.host, h.wf⟩

/-- A plan in which `prepareYearWrite` does not stand. -/
inductive Uncommitted : Plan → Prop
  | reply (b : Bundle) : Uncommitted (.reply b)
  | finish (b : Bundle) : Uncommitted (.finish b)
  | read {next : Byte → Plan} (r : Register) (h : ∀ t, Uncommitted (next t)) : Uncommitted (.read r next)
  | write {p : Plan} (r : Register) (v : Byte) (h : Uncommitted p) : Uncommitted (.write r v p)

theorem Uncommitted.run_keepsBlock {p : Plan} (h : Uncommitted p) (s : State) : KeepsBlock s (p.run s) := by
  induction h generalizing s with
  | reply b => exact keepsBlock_deliver b s
  | finish b => exact keepsBlock_finish b s
  | read r _ ih =>
    cases ok : answersOk 2 s.env with
    | true =>
      rw [Plan.run_read, readThen_ok ok]
      exact (keepsBlock_readDone r s).trans (ih _ _)
    | false =>
      obtain ⟨t, calls, ht, hfrom, -⟩ := readThen_failed (r := r) _ ok
      rw [Plan.run_read, ht]
      exact hfrom.keepsBlock_abort
  | write r v _ ih =>
    cases ok : nextAnswer s.env with
    | true =>
      rw [Plan.run_write, writeThen_ok ok]
      exact (keepsBlock_writeDone r v s).trans (ih _)
    | false =>
      obtain ⟨t, ht, hfrom⟩ := writeThen_failed (r := r) (v := v) _ ok
      rw [Plan.run_write, ht]
      exact hfrom.keepsBlock_abort

theorem uncommitted_getPlan (r : Register) (f : Byte → Nat) : Uncommitted (getPlan r f) := .read r fun _ => .finish _

theorem uncommitted_writePlan (r : Register) (v : Byte) : Uncommitted (writePlan r v) := .write r v (.finish _)

theorem uncommitted_modifyPlan {p : Plan} (r : Register) (f : Byte → Byte) (h : Uncommitted p) :
    Uncommitted (modifyPlan r f p) :=
  .read r fun _ => .write r _ h

/-- The write of `baseline` with which an instruction begins, if it is one of the two that have it (R162, R208). -/
def adoptCentury (i : Instr) (s : State) : State :=
  match i with
  | .prepYear y => commitBaseline y s
  | .setYear y => commitBaseline y s
  | _ => s

/-- After `prepareYearWrite` no instruction touches the block's own state, failed or not. -/
theorem run_planOf_keepsBlock (i : Instr) (s : State) : KeepsBlock (adoptCentury i s) ((planOf i s).run s) := by
  cases i with
  | prepYear y => exact keepsBlock_deliver _ _
  | setYear y =>
    refine Uncommitted.run_keepsBlock ?_ (commitBaseline y s)
    split
    · exact uncommitted_modifyPlan _ _ (.write _ _ (.finish _))
    · exact .write _ _ (.finish _)
  | decSec | decMin | decHour | decDay | decDate | decMon | decYr => exact keepsBlock_deliver _ _
  | encSec | encMin | encHour | encDay | encDate | encMon | encYr => exact keepsBlock_deliver _ _
  | decYear => exact keepsBlock_deliver _ _
  | getSec | getMin | getHour | getDay | getDate | getMon | getYr =>
    exact (uncommitted_getPlan _ _).run_keepsBlock s
  | getYear => exact (Uncommitted.read _ fun _ => .read _ fun _ => .finish _).run_keepsBlock s
  | setSec | setHour | start | stop => exact (uncommitted_modifyPlan _ _ (.finish _)).run_keepsBlock s
  | setMin | setDay | setDate | setMon | setYr => exact (uncommitted_writePlan _ _).run_keepsBlock s
  | rdb a =>
    cases h : s.params.addresses.ofAddr a with
    | some r => rw [planOf, planRdb_register h]; exact (uncommitted_getPlan r _).run_keepsBlock s
    | none => rw [planOf, planRdb_outside h]; exact keepsBlock_deliver _ _
  | wrb a v =>
    cases h : s.params.addresses.ofAddr a with
    | some r => rw [planOf, planWrb_register v h]; exact (uncommitted_writePlan r v).run_keepsBlock s
    | none => rw [planOf, planWrb_outside v h]; exact keepsBlock_deliver _ _

/-! ### The invariant -/

theorem KeepsBlock.inv {s t : State} (h : KeepsBlock s t) (hs : s.Inv) : t.Inv := by
  obtain ⟨wf, baseline, params⟩ := hs
  exact ⟨h.wf wf, by rwa [h.baseline], by rwa [h.params]⟩

/-- A reset puts `BASELINE_RESET` into `baseline`, and that is a multiple of 100. -/
theorem ResetFrom.inv {s t : State} (h : ResetFrom s t) (hs : s.Inv) : t.Inv := by
  obtain ⟨wf, -, params⟩ := hs
  exact ⟨h.wf wf, by rw [h.baseline]; exact params.1, by rwa [h.params]⟩

theorem commitBaseline_inv (y : Year) {s : State} (hs : s.Inv) : (commitBaseline y s).Inv := by
  obtain ⟨wf, -, params⟩ := hs
  refine ⟨by rwa [commitBaseline_reg], ?_, by rwa [commitBaseline_params]⟩
  rw [commitBaseline_baseline, centuryOf_toNat, Nat.mul_mod_left]

theorem adoptCentury_inv (i : Instr) {s : State} (hs : s.Inv) : (adoptCentury i s).Inv := by
  cases i with
  | prepYear y => exact commitBaseline_inv y hs
  | setYear y => exact commitBaseline_inv y hs
  | _ => exact hs

theorem resetFrom_resetBlock (s : State) : ResetFrom s (resetBlock s) := ⟨rfl, rfl, rfl, id⟩

/-- The invariant over one host move, by what each kind of move can do to the block. -/
theorem step_inv {s t : State} (hs : s.Inv) (h : step s = .next t) : t.Inv := by
  have hticks : ∀ rest, (s.ticks.setHost rest).Inv := fun _ => (keepsBlock_ticks s).inv hs
  cases hm : s.host with
  | nil =>
    obtain rfl : s.ticks = t := by simpa [step_idle hm] using h
    exact (keepsBlock_ticks s).inv hs
  | cons move rest =>
    cases move with
    | reset =>
      obtain rfl : resetBlock (s.ticks.setHost rest) = t := by simpa [step_reset hm] using h
      exact (resetFrom_resetBlock _).inv (hticks rest)
    | command w =>
      cases hd : decode s.params.addresses w with
      | ok i =>
        obtain rfl : (planOf i (s.ticks.setHost rest)).run (s.ticks.setHost rest) = t := by
          simpa [step_command_ok hm hd, exec_eq_run] using h
        exact (run_planOf_keepsBlock i _).inv (adoptCentury_inv i (hticks rest))
      | error e =>
        obtain rfl : illegalCommand (s.ticks.setHost rest) = t := by simpa [step_command_error hm hd] using h
        exact (keepsBlock_deliver _ _).inv (hticks rest)
    | cutShort w calls inFlight =>
      cases hd : decode s.params.addresses w with
      | ok i =>
        obtain rfl : cutCommand i calls inFlight (s.ticks.setHost rest) = t := by
          simpa [step_cutShort_ok hm hd] using h
        exact (cutCommand_resetFrom i calls inFlight _).inv (hticks rest)
      | error e =>
        obtain rfl : resetBlock (illegalCommand (s.ticks.setHost rest)) = t := by
          simpa [step_cutShort_error hm hd] using h
        exact (resetFrom_resetBlock _).inv ((keepsBlock_deliver _ _).inv (hticks rest))

/-! ### One step of the peripheral, register by register (R50) -/

/-- The byte a register that held `b` holds after the tick `t`; `cent` is the new CENT in its place. -/
def tickByte (t : Tick) (cent : Byte) (r : Register) (b : Byte) : Byte :=
  match r with
  | .seconds => (b &&& 0x80) ||| t.sec.setWidth 8
  | .minutes => (b &&& 0x80) ||| t.min.setWidth 8
  | .centHours => (b &&& 0x40) ||| (cent ||| t.hour.setWidth 8)
  | .day => (b &&& 0xF8) ||| t.day.setWidth 8
  | .date => (b &&& 0xC0) ||| t.date.setWidth 8
  | .month => (b &&& 0xE0) ||| t.month.setWidth 8
  | .year => (b &&& 0x00) ||| t.year
  | .config1 | .trickle | .config2 | .sfKey1 | .sfKey2 | .sfr => b

theorem tickFields_read (t : Tick) (cent : Byte) (m : Memory) (r : Register) :
    (tickFields t cent m).read r.key = tickByte t cent r (m.read r.key) := by
  cases r <;> simp [tickFields, tickReg_read, tickByte]

theorem State.runState_eq_halted_iff (s : State) : s.runState = .halted ↔ haltBit (s.readReg .seconds) = true := by
  simp [State.runState]

theorem State.runState_eq_running_iff (s : State) : s.runState = .running ↔ haltBit (s.readReg .seconds) = false := by
  simp [State.runState]

theorem applyTick_readReg {s : State} (t : Tick) (h : s.runState = .running) (r : Register) :
    (applyTick t s).readReg r = tickByte t (if centAfter s t.carry then 0x80 else 0) r (s.readReg r) := by
  rw [applyTick_running t h]
  exact tickFields_read t _ s.reg r

/-- CENT stands in bit 7, beside everything else in CentHours. -/
theorem tickByte_centHours_and (t : Tick) (c : Bool) (b : Byte) :
    tickByte t (if c then 0x80 else 0) .centHours b &&& 0x7F = (b &&& 0x40) ||| t.hour.setWidth 8 := by
  have hour : ∀ x : BitVec 6, (x.setWidth 8 : Byte) &&& 0x7F = x.setWidth 8 := by decide
  have cent : (if c then 0x80 else 0 : Byte) &&& 0x7F = 0#8 := by cases c <;> rfl
  rw [tickByte, BitVec.and_or_distrib_right, BitVec.and_or_distrib_right, hour, cent, BitVec.zero_or, BitVec.and_assoc]
  rfl

theorem centBit_tickByte_centHours (t : Tick) (c : Bool) (b : Byte) :
    centBit (tickByte t (if c then 0x80 else 0) .centHours b) = c := by
  cases c <;> simp [tickByte, centBit]

theorem centAfter_no_carry (s : State) : centAfter s false = centBit (s.readReg .centHours) := rfl

theorem centAfter_first_carry {s : State} (h : centBit (s.readReg .centHours) = false) : centAfter s true = true := by
  simp [centAfter, h]

/-! ### A read-modify-write whose calls are answered -/

theorem haltBit_clearBit7 (b : Byte) : haltBit (clearBit7 b) = false := by simp [haltBit, clearBit7]

theorem haltBit_setBit7 (b : Byte) : haltBit (setBit7 b) = true := by simp [haltBit, setBit7]

theorem clearBit7_and (b : Byte) : clearBit7 b &&& 0x7F = b &&& 0x7F := by
  rw [clearBit7, BitVec.and_assoc]; rfl

theorem setBit7_and (b : Byte) : setBit7 b &&& 0x7F = b &&& 0x7F := by
  rw [setBit7, BitVec.and_or_distrib_right, show (0x80 : Byte) &&& 0x7F = 0#8 from rfl, BitVec.or_zero]

@[simp] theorem finish_readReg (b : Bundle) (s : State) (r : Register) : (finish b s).readReg r = s.readReg r := rfl

@[simp] theorem writeDone_readReg_same (r : Register) (v : Byte) (s : State) : (writeDone r v s).readReg r = v :=
  Memory.read_write_same _ _ _

theorem run_modifyPlan_ok {r : Register} {f : Byte → Byte} {p : Plan} {s : State} (h : answersOk 3 s.env = true) :
    (modifyPlan r f p).run s = p.run (writeDone r (f (s.settle.settle.readReg r)) (readDone r s)) := by
  rw [answersOk_add_two 1, Bool.and_eq_true] at h
  obtain ⟨read, write⟩ := h
  rw [modifyPlan, Plan.run_read, readThen_ok read, Plan.run_write, writeThen_ok (by simpa [answersOk] using write)]

/-! ### Calls that nothing disturbs -/

theorem quiet_nil (n : Nat) : quiet n [] = true := by cases n <;> rfl

theorem quiet_succ {n : Nat} {e : List EnvMove} (h : quiet (n + 1) e = true) :
    nextAnswer e = true ∧ quiet n (afterAnswer e) = true := by
  cases e with
  | nil => exact ⟨rfl, quiet_nil n⟩
  | cons m e =>
    cases m with
    | tick t => cases h
    | answer ok => simpa [quiet, nextAnswer, afterAnswer] using h

theorem runTicks_reg_of_quiet {n : Nat} {e : List EnvMove} (h : quiet (n + 1) e = true) (s : State) :
    (runTicks e s).reg = s.reg := by
  cases e with
  | nil => rfl
  | cons m e =>
    cases m with
    | tick t => cases h
    | answer ok => rfl

theorem State.settle_reg_of_quiet {n : Nat} {s : State} (h : quiet (n + 1) s.env = true) : s.settle.reg = s.reg :=
  runTicks_reg_of_quiet h s

theorem State.settle_settle_reg_of_quiet {n : Nat} {s : State} (h : quiet (n + 2) s.env = true) :
    s.settle.settle.reg = s.reg :=
  (State.settle_reg_of_quiet (s := s.settle) (quiet_succ h).2).trans (State.settle_reg_of_quiet h)

/-- A `MemRead` that nothing disturbs returns the byte that stands in `REG` and leaves `REG`. -/
theorem run_read_of_quiet {n : Nat} {s : State} (h : quiet (n + 2) s.env = true) (r : Register) (next : Byte → Plan) :
    (Plan.read r next).run s = (next (s.readReg r)).run (readDone r s) ∧ (readDone r s).reg = s.reg ∧
      quiet n (readDone r s).env = true := by
  have hreg := State.settle_settle_reg_of_quiet h
  obtain ⟨first, rest⟩ := quiet_succ h
  obtain ⟨second, last⟩ := quiet_succ rest
  refine ⟨?_, hreg, last⟩
  rw [Plan.run_read, readThen_ok (by simp [answersOk, first, second]), State.readReg, hreg]
  rfl

/-- A `MemWrite` that nothing disturbs changes one byte of `REG`. -/
theorem run_write_of_quiet {n : Nat} {s : State} (h : quiet (n + 1) s.env = true) (r : Register) (v : Byte) (p : Plan) :
    (Plan.write r v p).run s = p.run (writeDone r v s) ∧ (writeDone r v s).reg = s.reg.write r.key v ∧
      quiet n (writeDone r v s).env = true := by
  obtain ⟨ok, rest⟩ := quiet_succ h
  exact ⟨writeThen_ok ok, by rw [writeDone_reg, State.settle_reg_of_quiet h], rest⟩

/-! ### The registers a plan writes -/

/-- A plan that makes at most `n` calls and writes no register but those `may` names, whatever bytes it reads. -/
inductive WritesOnly (may : Register → Bool) : Plan → Nat → Prop
  | reply (b : Bundle) (n : Nat) : WritesOnly may (.reply b) n
  | finish (b : Bundle) (n : Nat) : WritesOnly may (.finish b) n
  | commit {p : Plan} {n : Nat} (y : Year) (h : WritesOnly may p n) : WritesOnly may (.commit y p) n
  | read {next : Byte → Plan} {n : Nat} (r : Register) (h : ∀ t, WritesOnly may (next t) n) :
      WritesOnly may (.read r next) (n + 2)
  | write {p : Plan} {n : Nat} {r : Register} (v : Byte) (hr : may r = true) (h : WritesOnly may p n) :
      WritesOnly may (.write r v p) (n + 1)

theorem WritesOnly.run_read {may : Register → Bool} {p : Plan} {n : Nat} (h : WritesOnly may p n) {s : State}
    (hq : quiet n s.env = true) {a : Nat} (ha : ∀ r, may r = true → r.key ≠ a) :
    (p.run s).reg.read a = s.reg.read a := by
  induction h generalizing s with
  | reply b n => rfl
  | finish b n => rfl
  | commit y _ ih =>
    rw [Plan.run_commit, ih (by rwa [commitBaseline_env]), commitBaseline_reg]
  | read r _ ih =>
    obtain ⟨hrun, hreg, rest⟩ := run_read_of_quiet hq r _
    rw [hrun, ih _ rest, hreg]
  | @write p n r v hr _ ih =>
    obtain ⟨hrun, hreg, rest⟩ := run_write_of_quiet hq r v p
    rw [hrun, ih rest, hreg, Memory.read_write_other (ha r hr).symm]

/-- A register that the rest of a read-modify-write leaves alone ends with the modified byte. -/
theorem WritesOnly.run_modifyPlan_readReg {may : Register → Bool} {p : Plan} {n : Nat} (h : WritesOnly may p n)
    {r : Register} (hr : may r = false) (f : Byte → Byte) {s : State} (hq : quiet (n + 3) s.env = true) :
    ((modifyPlan r f p).run s).readReg r = f (s.readReg r) := by
  obtain ⟨hread, -, rest⟩ := run_read_of_quiet hq r fun t => .write r (f t) p
  obtain ⟨hwrite, hreg, last⟩ := run_write_of_quiet rest r (f (s.readReg r)) p
  have others : ∀ q, may q = true → q.key ≠ r.key := by
    intro q hq e
    rw [Register.key_injective e, hr] at hq
    cases hq
  rw [modifyPlan, hread, hwrite, State.readReg, h.run_read last others, hreg, Memory.read_write_same]

theorem writesOnly_getPlan (may : Register → Bool) (r : Register) (f : Byte → Nat) (n : Nat) :
    WritesOnly may (getPlan r f) (n + 2) :=
  .read r fun _ => .finish _ n

theorem writesOnly_writePlan {may : Register → Bool} {r : Register} (hr : may r = true) (v : Byte) (n : Nat) :
    WritesOnly may (writePlan r v) (n + 1) :=
  .write v hr (.finish _ n)

theorem writesOnly_modifyPlan {may : Register → Bool} {r : Register} (hr : may r = true) (f : Byte → Byte) {p : Plan}
    {n : Nat} (h : WritesOnly may p n) : WritesOnly may (modifyPlan r f p) (n + 3) :=
  .read r fun _ => .write _ hr h

/-! ### The bus (R47) -/

/-- Every answered transaction releases the bus, and one that is not answered ends the operation. -/
theorem Plan.run_busHeld (p : Plan) {s : State} (h : s.busHeld = false) :
    (p.run s).busHeld = false ∨ (p.run s).port.getLast? = some (.result .transportError) := by
  induction p generalizing s with
  | reply b => exact .inl h
  | finish b => exact .inl h
  | commit y p ih => exact ih (by rwa [commitBaseline_busHeld])
  | read r next ih =>
    cases ok : answersOk 2 s.env with
    | true => rw [Plan.run_read, readThen_ok ok]; exact ih _ (readDone_busHeld r s)
    | false =>
      obtain ⟨t, -, ht, -, -⟩ := readThen_failed (r := r) (fun t s1 => (next t).run s1) ok
      rw [Plan.run_read, ht]
      exact .inr (by simp [abort])
  | write r v p ih =>
    cases ok : nextAnswer s.env with
    | true => rw [Plan.run_write, writeThen_ok ok]; exact ih (writeDone_busHeld r v s)
    | false =>
      obtain ⟨t, ht, -⟩ := writeThen_failed (r := r) (v := v) (fun s1 => p.run s1) ok
      rw [Plan.run_write, ht]
      exact .inr (by simp [abort])

/-! ### The control bits beside a field (R98, R133) -/

/-- The tens digit of an encode lies outside the preserved bits. -/
theorem tens_and_preserveMask (f : BcdField) (n : Nat) :
    BitVec.ofNat 8 ((n &&& f.row.encTensMask.toNat) <<< 4) &&& f.row.preserveMask = 0#8 := by
  have key : ∀ f : BcdField, ∀ t ≤ f.row.encTensMask.toNat, BitVec.ofNat 8 (t <<< 4) &&& f.row.preserveMask = 0#8 := by
    intro f; cases f <;> decide
  exact key f _ Nat.and_le_right

/-- The units digit of an encode lies outside the preserved bits. -/
theorem units_and_preserveMask (f : BcdField) (n : Nat) :
    BitVec.ofNat 8 (n &&& f.row.unitsMask.toNat) &&& f.row.preserveMask = 0#8 := by
  have key : ∀ f : BcdField, ∀ u ≤ f.row.unitsMask.toNat, BitVec.ofNat 8 u &&& f.row.preserveMask = 0#8 := by
    intro f; cases f <;> decide
  exact key f _ Nat.and_le_right

theorem encodeField_and_preserveMask (f : BcdField) (v : Nat) (c : Byte) :
    encodeField f v c &&& f.row.preserveMask = c &&& f.row.preserveMask := by
  rw [encodeField, bcdEncode, BitVec.and_or_distrib_right, BitVec.and_or_distrib_right, tens_and_preserveMask,
    units_and_preserveMask, BitVec.or_zero, BitVec.or_zero, BitVec.and_assoc, BitVec.and_self]

end Sys2Proof.Machine

namespace Sys2Proof.Claims

open Sys2Proof.Machine

/-! ### The registers every instruction writes (R39) -/

theorem writesOnly_planSetYear (y : Year) (s : State) :
    WritesOnly (mayWrite s (.setYear y)) (planSetYear y s) 4 := by
  have writeYear (n : Nat) : WritesOnly (mayWrite s (.setYear y))
      (.write .year (encodeField .yr (shortYearOf y).toNat 0) (.finish (yearBundle y s))) (n + 1) :=
    .write _ (by simp [mayWrite]) (.finish _ n)
  refine .commit y ?_
  split
  · next h =>
    have hy := (needsOverflowReset_eq_true_iff s y).1 h
    exact writesOnly_modifyPlan (by simpa [mayWrite] using hy) clearBit7 (writeYear 0)
  · exact writeYear 3

theorem writesOnly_planOf (i : Instr) (s : State) : WritesOnly (mayWrite s i) (planOf i s) 4 := by
  cases i with
  | decSec | decMin | decHour | decDay | decDate | decMon | decYr => exact .reply _ 4
  | encSec | encMin | encHour | encDay | encDate | encMon | encYr => exact .reply _ 4
  | decYear => exact .reply _ 4
  | prepYear y => exact .commit y (.reply _ 4)
  | getSec | getMin | getHour | getDay | getDate | getMon | getYr => exact writesOnly_getPlan _ _ _ 2
  | getYear => exact .read _ fun _ => .read _ fun _ => .finish _ 0
  | setSec | setHour | start | stop => exact writesOnly_modifyPlan rfl _ (.finish _ 1)
  | setMin | setDay | setDate | setMon | setYr => exact writesOnly_writePlan rfl _ 3
  | setYear y => exact writesOnly_planSetYear y s
  | rdb a =>
    cases h : s.params.addresses.ofAddr a with
    | some r => rw [planOf, planRdb_register h]; exact writesOnly_getPlan _ r _ 2
    | none => rw [planOf, planRdb_outside h]; exact .reply _ 4
  | wrb a v =>
    cases h : s.params.addresses.ofAddr a with
    | some r =>
      rw [planOf, planWrb_register v h]
      exact writesOnly_writePlan (by simpa [mayWrite] using AddressMap.addr_of_ofAddr h) v 3
    | none => rw [planOf, planWrb_outside v h]; exact .reply _ 4

/-- With no step of the peripheral and no failure, `SET.YEAR` changes at most CENT in CentHours (R208). -/
theorem run_planSetYear_centHours (y : Year) {s : State} (hq : quiet 4 s.env = true) :
    ((planSetYear y s).run s).readReg .centHours &&& 0x7F = s.readReg .centHours &&& 0x7F := by
  by_cases h : y.toNat / 100 * 100 = s.baseline.toNat
  · have others : ∀ r, mayWrite s (.setYear y) r = true → r.key ≠ Register.centHours.key := by
      intro r hr e
      rw [Register.key_injective e] at hr
      simp [mayWrite, h] at hr
    rw [State.readReg, (writesOnly_planSetYear y s).run_read hq others]
    rfl
  · have writeYear : WritesOnly (· == .year)
        (.write .year (encodeField .yr (shortYearOf y).toNat 0) (.finish (yearBundle y s))) 1 :=
      .write _ rfl (.finish _ 0)
    have modified := writeYear.run_modifyPlan_readReg (r := .centHours) rfl clearBit7
      (s := commitBaseline y s) (by rwa [commitBaseline_env])
    have hn := (needsOverflowReset_eq_true_iff s y).2 h
    rw [planSetYear, hn, if_pos rfl, Plan.run_commit, modified, clearBit7_and, commitBaseline_readReg]

/-! ### The obligations -/

/-- Settles O13: the block's own state changes only by `prepareYearWrite` and by a reset, and both keep the invariant
(`step_inv`). -/
theorem everyStepKeepsTheInvariant : Obligations.EveryStepKeepsTheInvariant := fun _ _ => step_inv

/-- Settles O14, by the byte of each register after a tick (`applyTick_readReg`). -/
theorem peripheralStepStaysInItsEnvelope : Obligations.PeripheralStepStaysInItsEnvelope := by
  intro k s
  refine ⟨fun h => applyTick_halted k (s.runState_eq_halted_iff.2 h), fun h => ?_⟩
  have hread := applyTick_readReg k (s.runState_eq_running_iff.2 h)
  have same := applyTick_sameBlock k s
  refine ⟨hread _, hread _, ?_, fun hc => ?_, fun hc hcent => ?_, hread _, hread _, hread _, ?_, fun r hr => ?_,
    same.baseline, same.port, same.host, same.params⟩
  · rw [hread, tickByte_centHours_and]
  · rw [hread, centBit_tickByte_centHours, hc, centAfter_no_carry]
  · rw [hread, centBit_tickByte_centHours, hc, centAfter_first_carry hcent]
  · simp [hread, tickByte]
  · rw [hread]
    fin_cases hr <;> rfl

/-- Settles O15: a halted clock takes none of the listed ticks. -/
theorem haltedClockHoldsEveryRegister : Obligations.HaltedClockHoldsEveryRegister := by
  intro s h
  have held : s.ticks.reg = s.reg := (runTicks_halted s.env h).1
  exact ⟨held, held⟩

/-- Settles O23: after `prepareYearWrite` every instruction keeps `baseline`, failed or not (`run_planOf_keepsBlock`). -/
theorem onlyPrepYearAndSetYearWriteBaseline : Obligations.OnlyPrepYearAndSetYearWriteBaseline := by
  intro i s t h
  obtain rfl : (planOf i s).run s = t := by simpa [exec_eq_run] using h
  rw [(run_planOf_keepsBlock i s).baseline]
  cases i with
  | prepYear y => simp [adoptCentury, centuryOf_toNat]
  | setYear y => simp [adoptCentury, centuryOf_toNat]
  | _ => rfl

/-- Settles O26: the byte written last is the one read, with HALT cleared or set. -/
theorem startRunsAndStopHalts : Obligations.StartRunsAndStopHalts := by
  intro s h
  refine ⟨⟨_, exec_eq_run .start s, ?_⟩, ⟨_, exec_eq_run .stop s, ?_⟩⟩
  · rw [State.runState_eq_running_iff, planOf, planStart, run_modifyPlan_ok h]
    simp [haltBit_clearBit7]
  · rw [State.runState_eq_halted_iff, planOf, planStop, run_modifyPlan_ok h]
    simp [haltBit_setBit7]

/-- Settles O46: no plan writes a register that R39 does not list for its instruction (`writesOnly_planOf`). -/
theorem operationsWriteOnlyTheirRegisters : Obligations.OperationsWriteOnlyTheirRegisters :=
  fun i s hq => ⟨_, exec_eq_run i s, fun _ ha => (writesOnly_planOf i s).run_read hq ha⟩

/-- Settles O47: each operation but `SET.YEAR` is one read-modify-write by a function that keeps the bits named. -/
theorem timeFieldWritesPreserveControlBits : Obligations.TimeFieldWritesPreserveControlBits := by
  intro s hq
  have modified (r : Register) (f : Byte → Byte) :
      ((modifyPlan r f (.finish .empty)).run s).readReg r = f (s.readReg r) :=
    (WritesOnly.finish (may := fun _ => false) .empty 1).run_modifyPlan_readReg rfl f hq
  refine ⟨fun v => ⟨_, exec_eq_run _ s, ?_⟩, ⟨_, exec_eq_run _ s, ?_⟩, ⟨_, exec_eq_run _ s, ?_⟩,
    fun v => ⟨_, exec_eq_run _ s, ?_⟩, fun y => ⟨_, exec_eq_run _ s, run_planSetYear_centHours y hq⟩⟩
  · exact (congrArg (· &&& 0x80) (modified .seconds _)).trans (encodeField_and_preserveMask .sec v.toNat _)
  · exact (congrArg (· &&& 0x7F) (modified .seconds _)).trans (clearBit7_and _)
  · exact (congrArg (· &&& 0x7F) (modified .seconds _)).trans (setBit7_and _)
  · exact (congrArg (· &&& 0xC0) (modified .centHours _)).trans (encodeField_and_preserveMask .hour v.toNat _)

/-- Settles O48: an operation that did not end in `TransportError` released the bus with its last transaction. -/
theorem completedOperationsReleaseTheBus : Obligations.CompletedOperationsReleaseTheBus := by
  rintro i s t h hs ⟨res, aux, flag, hlast⟩
  obtain rfl : (planOf i s).run s = t := by simpa [exec_eq_run] using h
  rcases (planOf i s).run_busHeld hs with released | failed
  · exact released
  · rw [failed] at hlast
    cases hlast

/-- Settles O5: the equation of a step for a command word that decodes. -/
theorem stepRunsTheDecodedCommand : Obligations.StepRunsTheDecodedCommand := fun _ _ _ _ => step_command_ok

/-- Settles O11: the fields of the reset state, with the default of `BASELINE_RESET`. -/
theorem resetLeavesBaseline2000AndIdle : Obligations.ResetLeavesBaseline2000AndIdle := ⟨rfl, rfl, rfl, rfl⟩

/-- Settles O12: an empty register space is canonical, and the default tables are injective. -/
theorem resetMeetsTheInvariant : Obligations.ResetMeetsTheInvariant :=
  ⟨⟨.nil, fun _ h => nomatch h⟩, rfl, rfl, AddressMap.wf_standard, DayCodes.wf_standard⟩

end Sys2Proof.Claims
end

section
/-! PROOF. Settles the statements of the register space and the transport: a step takes one move of the host (R67, R241), a
read returns the latest write (R67, R73), and every call moves one byte of one register (R71 to R74). -/

namespace Sys2Proof.Machine

/-! ### The host's list and the construction arguments over a step -/

@[simp] theorem commitBaseline_host (y : Year) (s : State) : (commitBaseline y s).host = s.host := by
  unfold commitBaseline; split <;> rfl

theorem adoptCentury_host (i : Instr) (s : State) : (adoptCentury i s).host = s.host := by
  cases i with
  | prepYear y => exact commitBaseline_host y s
  | setYear y => exact commitBaseline_host y s
  | _ => rfl

theorem adoptCentury_params (i : Instr) (s : State) : (adoptCentury i s).params = s.params := by
  cases i with
  | prepYear y => exact commitBaseline_params y s
  | setYear y => exact commitBaseline_params y s
  | _ => rfl

theorem run_planOf_host (i : Instr) (s : State) : ((planOf i s).run s).host = s.host :=
  (run_planOf_keepsBlock i s).host.trans (adoptCentury_host i s)

theorem run_planOf_params (i : Instr) (s : State) : ((planOf i s).run s).params = s.params :=
  (run_planOf_keepsBlock i s).params.trans (adoptCentury_params i s)

/-- The move is taken off the list before it is carried out, and no way of carrying it out touches the list again. -/
theorem step_host_params {s t : State} (h : step s = .next t) : t.host = s.host.tail ∧ t.params = s.params := by
  cases hm : s.host with
  | nil =>
    rw [step_idle hm] at h
    cases h
    exact ⟨s.ticks_host.trans hm, s.ticks_params⟩
  | cons move rest =>
    cases move with
    | reset =>
      rw [step_reset hm] at h
      cases h
      exact ⟨rfl, s.ticks_params⟩
    | command w =>
      cases hd : decode s.params.addresses w with
      | ok i =>
        rw [step_command_ok hm hd, exec_eq_run] at h
        cases h
        exact ⟨run_planOf_host i _, (run_planOf_params i _).trans s.ticks_params⟩
      | error e =>
        rw [step_command_error hm hd] at h
        cases h
        exact ⟨rfl, s.ticks_params⟩
    | cutShort w calls inFlight =>
      cases hd : decode s.params.addresses w with
      | ok i =>
        rw [step_cutShort_ok hm hd] at h
        cases h
        have cut := cutCommand_resetFrom i calls inFlight (s.ticks.setHost rest)
        exact ⟨cut.host, cut.params.trans s.ticks_params⟩
      | error e =>
        rw [step_cutShort_error hm hd] at h
        cases h
        exact ⟨rfl, s.ticks_params⟩

/-! ### A write and then a read that nothing disturbs -/

theorem Memory.read_write (m : Memory) (a c : Nat) (v : Byte) :
    (Memory.write m a v).read c = if c = a then v else m.read c := by
  split
  · next h => rw [h, Memory.read_write_same]
  · next h => exact Memory.read_write_other h

@[simp] theorem readDone_latch (r : Register) (s : State) : (readDone r s).latch = s.settle.settle.readReg r := rfl

theorem answersOk_of_quiet {n : Nat} {e : List EnvMove} (h : quiet n e = true) : answersOk n e = true := by
  induction n generalizing e with
  | zero => rfl
  | succ n ih =>
    obtain ⟨ok, rest⟩ := quiet_succ h
    rw [answersOk_succ, ok, ih rest, Bool.and_self]

/-! ### What the ports show of a plan -/

/-- A transport call that moves one register's address, one address and one data byte, or one byte back, all under the
device address (R71 to R74); or a result bundle. -/
inductive SingleByteEvent (p : Params) : PortEvent → Prop
  | address (r : Register) (ok : Bool) : SingleByteEvent p (.write p.deviceAddr [p.addresses.addr r] true ok)
  | data (r : Register) (v : Byte) (ok : Bool) :
      SingleByteEvent p (.write p.deviceAddr [p.addresses.addr r, v] false ok)
  | reply (byte : Option Byte) : SingleByteEvent p (.read p.deviceAddr byte)
  | result (b : Bundle) : SingleByteEvent p (.result b)

/-- From `s` to `t` the ports have shown such events and nothing else. -/
def ShowsSingleBytes (s t : State) : Prop := ∃ new, t.port = s.port ++ new ∧ ∀ e ∈ new, SingleByteEvent s.params e

theorem ShowsSingleBytes.trans {s t u : State} (h : ShowsSingleBytes s t) (hp : t.params = s.params)
    (k : ShowsSingleBytes t u) : ShowsSingleBytes s u := by
  obtain ⟨c, ht, hc⟩ := h
  obtain ⟨d, hu, hd⟩ := k
  rw [hp] at hd
  exact ⟨c ++ d, by rw [hu, ht, List.append_assoc], List.forall_mem_append.2 ⟨hc, hd⟩⟩

theorem showsSingleBytes_deliver (b : Bundle) (s : State) : ShowsSingleBytes s (deliver b s) :=
  ⟨[.result b], rfl, List.forall_mem_singleton.2 (.result b)⟩

theorem showsSingleBytes_finish (b : Bundle) (s : State) : ShowsSingleBytes s (finish b s) :=
  ⟨[.result b], rfl, List.forall_mem_singleton.2 (.result b)⟩

theorem showsSingleBytes_readDone (r : Register) (s : State) : ShowsSingleBytes s (readDone r s) :=
  ⟨_, readDone_port r s, List.forall_mem_cons.2 ⟨.address r true, List.forall_mem_singleton.2 (.reply _)⟩⟩

theorem showsSingleBytes_writeDone (r : Register) (v : Byte) (s : State) : ShowsSingleBytes s (writeDone r v s) :=
  ⟨_, writeDone_port r v s, List.forall_mem_singleton.2 (.data r v true)⟩

/-- The calls up to a failed one are shown, and then the error. -/
theorem FailedFrom.showsSingleBytes_abort {s t : State} {calls : List PortEvent} (h : FailedFrom s calls t)
    (hc : ∀ e ∈ calls, SingleByteEvent s.params e) : ShowsSingleBytes s (abort t) :=
  .trans ⟨calls, h.port, hc⟩ h.params (showsSingleBytes_finish _ t)

theorem Plan.run_showsSingleBytes (p : Plan) (s : State) : ShowsSingleBytes s (p.run s) := by
  induction p generalizing s with
  | reply b => exact showsSingleBytes_deliver b s
  | finish b => exact showsSingleBytes_finish b s
  | commit y p ih => simpa [ShowsSingleBytes] using ih (commitBaseline y s)
  | read r next ih =>
    cases ok : answersOk 2 s.env with
    | true =>
      rw [Plan.run_read, readThen_ok ok]
      exact (showsSingleBytes_readDone r s).trans (readDone_params r s) (ih _ _)
    | false =>
      obtain ⟨t, calls, ht, hfrom, hcalls⟩ := readThen_failed (r := r) (fun t s1 => (next t).run s1) ok
      rw [Plan.run_read, ht]
      refine hfrom.showsSingleBytes_abort ?_
      rcases hcalls with rfl | rfl
      · exact List.forall_mem_singleton.2 (.address r false)
      · exact List.forall_mem_cons.2 ⟨.address r true, List.forall_mem_singleton.2 (.reply none)⟩
  | write r v p ih =>
    cases ok : nextAnswer s.env with
    | true =>
      rw [Plan.run_write, writeThen_ok ok]
      exact (showsSingleBytes_writeDone r v s).trans (writeDone_params r v s) (ih _)
    | false =>
      obtain ⟨t, ht, hfrom⟩ := writeThen_failed (r := r) (v := v) (fun s1 => p.run s1) ok
      rw [Plan.run_write, ht]
      exact hfrom.showsSingleBytes_abort (List.forall_mem_singleton.2 (.data r v false))

end Sys2Proof.Machine

namespace Sys2Proof.Claims

open Sys2Proof.Machine

/-! ### The obligations -/

/-- Settles O9, by the cases of the host's next move (`step_host_params`). -/
theorem commandsAreTakenInHostOrder : Obligations.CommandsAreTakenInHostOrder := fun _ _ => step_host_params

/-- Settles O43: neither the write nor the read finds `REG` moved by the peripheral, so the read sees the memory after one
write. -/
theorem readReturnsTheLatestWrite : Obligations.ReadReturnsTheLatestWrite := by
  intro s r q v hq
  obtain ⟨ok, rest⟩ := quiet_succ hq
  have written : (writeDone r v s).reg = s.reg.write r.key v := by rw [writeDone_reg, State.settle_reg_of_quiet hq]
  have held : (writeDone r v s).settle.settle.reg = (writeDone r v s).reg := State.settle_settle_reg_of_quiet rest
  refine ⟨_, _, memWrite_ok ok, memRead_ok (answersOk_of_quiet rest), ?_, held, fun a => ?_⟩
  · rw [readDone_latch, State.readReg, held, written]
    exact s.readReg_writeReg r q v
  · rw [written, Memory.read_write]

/-- Settles O45: every instruction runs a plan, and a plan shows such events only (`Plan.run_showsSingleBytes`). -/
theorem everyCallIsASingleByteTransaction : Obligations.EveryCallIsASingleByteTransaction := by
  intro i s t h
  rw [exec_eq_run] at h
  cases h
  obtain ⟨new, hport, hnew⟩ := (planOf i s).run_showsSingleBytes s
  refine ⟨new, hport, fun e he => ?_⟩
  cases hnew e he with
  | address r ok => exact .inl ⟨r, ok, rfl⟩
  | data r v ok => exact .inr (.inl ⟨r, v, ok, rfl⟩)
  | reply byte => exact .inr (.inr (.inl ⟨byte, rfl⟩))
  | result b => exact .inr (.inr (.inr ⟨b, rfl⟩))

end Sys2Proof.Claims
end


section
/-! PROOF. Settles the statements of the encoding: the decoder and the encoder are inverse but for the reserved bits of a
word's format (R100 to R102, R111 to R114), the day codes cover their field (R99), and a direct set and a get are their
codec operation beside `WRB` or `RDB` (R116). -/

namespace Sys2Proof

open Sys2Proof.Claims

/-! ### A word under the mask of its format (R102, R114) -/

/-- A mask acts on each byte of a word. -/
theorem and_eq_word (w k : Command) :
    w &&& k = word (opField w &&& opField k) (argHigh w &&& argHigh k) (argLow w &&& argLow k) := by
  rw [← word_of_fields (w &&& k)]
  simp only [opField, argHigh, argLow, BitVec.extractLsb'_and]

/-- The mask of a whole byte, in the spelling `simp` leaves it in. -/
@[simp] theorem byte_and_0xFF (b : Byte) : b &&& 255#8 = b := BitVec.and_allOnes

/-- `arg[8]` is what format `DY` keeps of the high byte. -/
theorem argHigh_and_one (w : Command) : argHigh w &&& 1#8 = if argBit8 w then 1#8 else 0#8 := by
  rw [argBit8_eq, BitVec.and_one_eq_setWidth_ofBool_getLsbD]
  cases (argHigh w).getLsbD 0 <;> rfl

theorem wordYear_argYear (op : Byte) (w : Command) : wordYear op (argYear w) = word op (argHigh w) (argLow w) := by
  apply BitVec.eq_of_toNat_eq
  rw [wordYear_toNat, word_toNat, argYear_toNat, argHigh_toNat, argLow_toNat]
  omega

/-- A word whose reserved bits are cleared, given the `op` and the format's mask of `arg`. -/
theorem and_formatMask {w : Command} {op : Nat} (high low : Byte) (hop : (opField w).toNat = op)
    (mask : formatMask (BitVec.ofNat 8 op) = word 0xFF high low) :
    w &&& formatMask (opField w) = word (BitVec.ofNat 8 op) (argHigh w &&& high) (argLow w &&& low) := by
  have field : opField w = BitVec.ofNat 8 op := by rw [← hop, BitVec.ofNat_toNat, BitVec.setWidth_eq]
  rw [field, mask, and_eq_word, field, opField_word, argHigh_word, argLow_word]
  exact congrArg (word · _ _) (byte_and_0xFF _)

/-! ### What the decoder answers (R101, R113) -/

theorem withRegister_ok {m : AddressMap} {a : Byte} (i : Instr) (h : (m.ofAddr a).isSome = true) :
    withRegister m a i = .ok i := if_pos h

theorem withRegister_error {m : AddressMap} {a : Byte} (i : Instr) (h : (m.ofAddr a).isSome = false) :
    withRegister m a i = .error (.notARegister a) := by simp [withRegister, h]

/-- The empty cells of the opcode map (R113 (a)). -/
abbrev Unassigned (op : Nat) : Prop :=
  (0x07 ≤ op ∧ op ≤ 0x0F) ∨ (0x17 ≤ op ∧ op ≤ 0x1F) ∨ (0x22 ≤ op ∧ op ≤ 0x2F) ∨ (0x38 ≤ op ∧ op ≤ 0x3F) ∨
    (0x48 ≤ op ∧ op ≤ 0x4F) ∨ (0x52 ≤ op ∧ op ≤ 0x5F) ∨ (0x62 ≤ op ∧ op ≤ 0xFF)

/-- The two operations that name a register by its address (R112). -/
abbrev IsBusOp (op : Nat) : Prop := op = 0x60 ∨ op = 0x61

/-- The decoder's answers to a word: an operation, which keeps every bit its format names, or one of the two rejections of
R113. -/
inductive Answer (m : AddressMap) (w : Command) : Except Reject Instr → Prop
  | spelled {i : Instr} (assigned : ¬ Unassigned (opField w).toNat)
      (named : IsBusOp (opField w).toNat → (m.ofAddr (argLow w)).isSome = true)
      (wf : i.wf m = true) (kept : encode i = w &&& formatMask (opField w)) : Answer m w (.ok i)
  | unassigned (op : Unassigned (opField w).toNat) : Answer m w (.error (.unassignedOp (opField w)))
  | notARegister (op : IsBusOp (opField w).toNat) (unnamed : (m.ofAddr (argLow w)).isSome = false) :
      Answer m w (.error (.notARegister (argLow w)))

/-- Every word has its answer, by the rows of the opcode map (R101). -/
theorem decode_answer (m : AddressMap) (w : Command) : Answer m w (decode m w) := by
  unfold decode
  split
  -- `DEC.f` and `SET.f`, formats `B` and `V`.
  case h_1 op | h_2 op | h_3 op | h_4 op | h_5 op | h_6 op | h_7 op | h_25 op | h_26 op | h_27 op | h_28 op | h_29 op |
      h_30 op | h_31 op =>
    exact .spelled (by omega) (by omega) rfl (by simp [encode, and_formatMask 0 0xFF op rfl])
  -- `ENC.f`, format `VB`.
  case h_8 op | h_9 op | h_10 op | h_11 op | h_12 op | h_13 op | h_14 op =>
    exact .spelled (by omega) (by omega) rfl (by simp [encode, and_formatMask 0xFF 0xFF op rfl])
  -- `DECYEAR`, format `DY`.
  case h_15 op =>
    exact .spelled (by omega) (by omega) rfl (by simp [encode, and_formatMask 1 0xFF op rfl, argHigh_and_one])
  -- `PREPYEAR` and `SET.YEAR`, format `Y`.
  case h_16 op | h_32 op =>
    exact .spelled (by omega) (by omega) rfl (by simp [encode, wordYear_argYear, and_formatMask 0xFF 0xFF op rfl])
  -- `GET.f`, `GET.YEAR`, `START` and `STOP`, format `N`.
  case h_17 op | h_18 op | h_19 op | h_20 op | h_21 op | h_22 op | h_23 op | h_24 op | h_33 op | h_34 op =>
    exact .spelled (by omega) (by omega) rfl (by simp [encode, and_formatMask 0 0 op rfl])
  -- `RDB`, format `A`.
  case h_35 op =>
    cases h : (m.ofAddr (argLow w)).isSome with
    | true =>
      rw [withRegister_ok _ h]
      exact .spelled (by omega) (fun _ => h) h (by simp [encode, and_formatMask 0 0xFF op rfl])
    | false => rw [withRegister_error _ h]; exact .notARegister (.inl op) h
  -- `WRB`, format `AV`.
  case h_36 op =>
    cases h : (m.ofAddr (argLow w)).isSome with
    | true =>
      rw [withRegister_ok _ h]
      exact .spelled (by omega) (fun _ => h) h (by simp [encode, and_formatMask 0xFF 0xFF op rfl])
    | false => rw [withRegister_error _ h]; exact .notARegister (.inr op) h
  case h_37 =>
    have bound := (opField w).isLt
    simp only [imp_false] at *
    exact .unassigned (by omega)

/-- The fields a format names come back out of the word that holds them. -/
theorem decode_encode {m : AddressMap} {i : Instr} (h : i.wf m = true) : decode m (encode i) = .ok i := by
  cases i with
  | decYear byte bit => cases bit <;> simp [encode, decode]
  | rdb a => simp [encode, decode, withRegister_ok _ h]
  | wrb a v => simp [encode, decode, withRegister_ok _ h]
  | _ => simp [encode, decode]

theorem decode_eq_unassigned_iff (m : AddressMap) (w : Command) :
    decode m w = .error (.unassignedOp (opField w)) ↔ Unassigned (opField w).toNat := by
  have answer := decode_answer m w
  generalize decode m w = r at answer ⊢
  cases answer with
  | spelled assigned => exact iff_of_false nofun assigned
  | unassigned op => exact iff_of_true rfl op
  | notARegister op => exact iff_of_false nofun (by omega)

theorem decode_eq_notARegister_iff (m : AddressMap) (w : Command) :
    decode m w = .error (.notARegister (argLow w)) ↔
      IsBusOp (opField w).toNat ∧ (m.ofAddr (argLow w)).isSome = false := by
  have answer := decode_answer m w
  generalize decode m w = r at answer ⊢
  cases answer with
  | spelled _ named => exact iff_of_false nofun fun ⟨op, unnamed⟩ => by simp [named op] at unnamed
  | unassigned op => exact iff_of_false nofun fun ⟨bus, _⟩ => by omega
  | notARegister op unnamed => exact iff_of_true rfl ⟨op, unnamed⟩

theorem eq_of_decode_error {m : AddressMap} {w : Command} {e : Reject} (h : decode m w = .error e) :
    e = .unassignedOp (opField w) ∨ e = .notARegister (argLow w) := by
  have answer := decode_answer m w
  rw [h] at answer
  cases answer with
  | unassigned => exact .inl rfl
  | notARegister => exact .inr rfl

/-- The low byte of a word is the address of no register (R112). -/
theorem ofAddr_argLow_eq_false_iff (m : AddressMap) (w : Command) :
    (m.ofAddr (argLow w)).isSome = false ↔ ∀ r, (m.addr r).toNat ≠ w.toNat % 256 := by
  rw [← Bool.not_eq_true, AddressMap.ofAddr_isSome, not_exists, ← argLow_toNat]
  exact forall_congr' fun r => not_congr BitVec.toNat_inj.symm

end Sys2Proof

namespace Sys2Proof.Machine

open Sys2Proof.Claims

/-! ### The day codes (R99) -/

/-- The values of the 3-bit field, as bytes. -/
def dayField : List Byte := (List.range 8).map (BitVec.ofNat 8)

theorem and_mem_dayField (b : Byte) : b &&& 0x07 ∈ dayField := by
  refine List.mem_map.2 ⟨(b &&& 0x07).toNat, List.mem_range.2 ?_, by rw [BitVec.ofNat_toNat, BitVec.setWidth_eq]⟩
  exact Nat.lt_succ_of_le Nat.and_le_right

/-- Eight distinct codes in a field of eight values leave none out. -/
theorem DayCodes.exists_code {c : DayCodes} (h : c.wf) (b : Byte) : ∃ d, c.code d = b &&& 0x07 := by
  have inField : DayOfWeek.all.map c.code ⊆ dayField := by
    refine List.forall_mem_map.2 fun d _ => ?_
    rw [← c.code_and_mask d]
    exact and_mem_dayField _
  have perm : (DayOfWeek.all.map c.code).Perm dayField := (List.subperm_of_subset h inField).perm_of_length_le le_rfl
  obtain ⟨d, -, hd⟩ := List.mem_map.1 (perm.mem_iff.2 (and_mem_dayField b))
  exact ⟨d, hd⟩

/-! ### Commands that end alike (R116) -/

theorem exec_reply_value {i : Instr} {s : State} {n : Nat} (h : planOf i s = .reply (.value n)) :
    exec i s = .next (shows s (.ok (BitVec.ofNat 16 n) 0 false)) := by
  rw [exec_eq_run, h]
  rfl

theorem exec_wrb {s : State} (hm : s.params.addresses.wf) (r : Register) (b : Byte) :
    exec (.wrb (s.params.addresses.addr r) b) s = .next ((writePlan r b).run s) := by
  rw [exec_eq_run, planOf, planWrb_register b (AddressMap.ofAddr_addr hm r)]

theorem exec_rdb {s : State} (hm : s.params.addresses.wf) (r : Register) :
    exec (.rdb (s.params.addresses.addr r)) s = .next ((getPlan r BitVec.toNat).run s) := by
  rw [exec_eq_run, planOf, planRdb_register (AddressMap.ofAddr_addr hm r)]

/-- A get whose calls are answered shows the decode of the byte read, and `REG` is what the peripheral made of it. -/
theorem run_getPlan_ok {s : State} (ok : answersOk 2 s.env = true) (r : Register) (f : Byte → Nat) :
    (getPlan r f).run s = finish (.value (f (s.settle.settle.readReg r))) (readDone r s) := readThen_ok ok

/-- A direct write of the byte that an encode operation delivers is what `WRB` of that byte does. -/
theorem exec_set_eq_wrb {set enc : Instr} {s : State} {r : Register} {b : Byte} (hm : s.params.addresses.wf)
    (hset : planOf set s = writePlan r b) (henc : planOf enc s = .reply (.value b.toNat)) :
    ∃ b : Byte, exec enc s = .next (shows s (.ok (b.setWidth 16) 0 false)) ∧
      exec set s = exec (.wrb (s.params.addresses.addr r) b) s :=
  ⟨b, by rw [exec_reply_value henc, BitVec.ofNat_toNat], by rw [exec_wrb hm, exec_eq_run, hset]⟩

/-- A get makes the calls of `RDB` and delivers the decode operation's number for the byte that `RDB` returns. -/
theorem exec_get_eq_rdb {get : Instr} {dec : Byte → Instr} {s : State} {r : Register} {f : Byte → Nat}
    (hm : s.params.addresses.wf) (ok : answersOk 2 s.env = true) (hget : planOf get s = getPlan r f)
    (hdec : ∀ b, planOf (dec b) s = .reply (.value (f b))) :
    ∃ t u calls, ∃ byte : Byte, ∃ n : BitVec 16,
      exec (.rdb (s.params.addresses.addr r)) s = .next t ∧
      t.port = s.port ++ calls ++ [.result (.ok (byte.setWidth 16) 0 false)] ∧
      exec (dec byte) s = .next (shows s (.ok n 0 false)) ∧
      exec get s = .next u ∧ u.port = s.port ++ calls ++ [.result (.ok n 0 false)] ∧ u.reg = t.reg := by
  refine ⟨_, _, readCalls s r (s.settle.settle.readReg r), s.settle.settle.readReg r, _, exec_rdb hm r, ?_,
    exec_reply_value (hdec _), exec_eq_run get s, ?_, ?_⟩
  · rw [run_getPlan_ok ok, finish_port, Bundle.value, BitVec.ofNat_toNat, readDone_port, readCalls]
  · rw [hget, run_getPlan_ok ok, finish_port, readDone_port, readCalls, Bundle.value]
  · rw [hget, run_getPlan_ok ok, run_getPlan_ok ok, finish_reg, finish_reg]

end Sys2Proof.Machine

namespace Sys2Proof.Claims

open Sys2Proof.Machine

/-! ### The obligations -/

/-- Settles O1: the fields of each format come back out of the word (`decode_encode`). -/
theorem wellFormedInstructionDecodesBackFromItsWord : Obligations.WellFormedInstructionDecodesBackFromItsWord :=
  fun _ _ => decode_encode

/-- Settles O2, by the decoder's answer to the word (`decode_answer`). -/
theorem decodedInstructionReencodesLessReservedBits : Obligations.DecodedInstructionReencodesLessReservedBits := by
  intro m w i h
  have answer := decode_answer m w
  rw [h] at answer
  cases answer with
  | spelled _ _ wf kept => exact ⟨wf, kept, decode_encode wf⟩

/-- Settles O3: each rejection has exactly its words, and the decoder has no other. -/
theorem wordsThatSpellNoOperation : Obligations.WordsThatSpellNoOperation := by
  intro m w
  rw [← opField_toNat, ← ofAddr_argLow_eq_false_iff]
  exact ⟨decode_eq_unassigned_iff m w, decode_eq_notARegister_iff m w, fun _ => eq_of_decode_error⟩

/-- Settles O4: the decoder evaluated on the twelve words. -/
theorem wordsOfTheSpecDecode : Obligations.WordsOfTheSpecDecode := by
  unfold Obligations.WordsOfTheSpecDecode
  decide

/-- Settles O20: the codes are eight distinct values of a field of eight. -/
theorem dayCodesCoverTheField : Obligations.DayCodesCoverTheField := by
  intro c h
  have named (b : Byte) : BitVec.ofNat 8 (decodeDay b) = b &&& dayMask := by
    rw [decodeDay, BitVec.ofNat_toNat, BitVec.setWidth_eq]
  refine ⟨fun d => ?_, fun b => ?_⟩
  · rw [named, encodeDay, BitVec.and_assoc, BitVec.and_self]
    exact (congrArg c.dayOf (c.code_and_mask d)).trans (DayCodes.dayOf_code h d)
  · obtain ⟨d, hd⟩ := DayCodes.exists_code h b
    exact ⟨d, by rw [named, dayMask, ← hd, DayCodes.dayOf_code h], hd⟩

/-- Settles O41: the direct set and the `WRB` run the same plan, a write of the byte `ENC.f` delivers. -/
theorem directSetIsEncodeThenWrb : Obligations.DirectSetIsEncodeThenWrb := by
  intro s v hm
  simp only [List.forall_mem_cons, List.not_mem_nil, false_imp_iff, implies_true, and_true]
  refine ⟨?_, ?_, ?_, ?_, ?_⟩ <;> exact exec_set_eq_wrb hm rfl rfl

/-- Settles O42: the get and the `RDB` make the same read, and the get applies the decode of `DEC.f` to its byte. -/
theorem getIsRdbThenDecode : Obligations.GetIsRdbThenDecode := by
  intro s hm ok
  simp only [List.forall_mem_cons, List.not_mem_nil, false_imp_iff, implies_true, and_true]
  refine ⟨?_, ?_, ?_, ?_, ?_, ?_, ?_⟩ <;> exact exec_get_eq_rdb hm ok rfl fun _ => rfl

end Sys2Proof.Claims
end

section
/-! PROOF. Settles the statements of the BCD codec: the round trip of a value and the bits an encode writes (R131 to R133), and
the results of the pure decode and encode operations (R134 to R147). -/

namespace Sys2Proof.Machine

/-! ### The masks of a row (R97, R98) -/

theorem decTensMask_and_unitsMask (f : BcdField) : f.row.decTensMask &&& f.row.unitsMask = 0#8 := by cases f <;> rfl

theorem preserveMask_and_decTensMask (f : BcdField) : f.row.preserveMask &&& f.row.decTensMask = 0#8 := by
  cases f <;> rfl

theorem preserveMask_and_unitsMask (f : BcdField) : f.row.preserveMask &&& f.row.unitsMask = 0#8 := by cases f <;> rfl

/-- What lies under one mask is outside every mask disjoint from it. -/
theorem and_eq_zero_of_disjoint {x m n : Byte} (under : x &&& m = x) (disjoint : m &&& n = 0#8) : x &&& n = 0#8 := by
  rw [← under, BitVec.and_assoc, disjoint, BitVec.and_zero]

/-! ### The two digits of an encode (R131) -/

/-- The units mask takes nothing from a decimal digit. -/
theorem mod_ten_and_unitsMask (f : BcdField) (v : Nat) : v % 10 &&& f.row.unitsMask.toNat = v % 10 := by
  have mask : f.row.unitsMask.toNat = 2 ^ 4 - 1 := by cases f <;> rfl
  rw [mask, Nat.and_two_pow_sub_one_eq_mod, Nat.mod_eq_of_lt (by omega)]

/-- The tens mask of an encode keeps the low bits of the tens count. -/
theorem and_encTensMask (f : BcdField) (n : Nat) :
    n &&& f.row.encTensMask.toNat = n % (f.row.encTensMask.toNat + 1) := by
  cases f with
  | sec | min => exact Nat.and_two_pow_sub_one_eq_mod n 3
  | hour | date => exact Nat.and_two_pow_sub_one_eq_mod n 2
  | mon => exact Nat.and_two_pow_sub_one_eq_mod n 1
  | yr => exact Nat.and_two_pow_sub_one_eq_mod n 4

/-- The tens digit of an encode stands in the tens field. -/
theorem tens_and_decTensMask (f : BcdField) (n : Nat) :
    BitVec.ofNat 8 ((n &&& f.row.encTensMask.toNat) <<< 4) &&& f.row.decTensMask =
      BitVec.ofNat 8 ((n &&& f.row.encTensMask.toNat) <<< 4) := by
  have key : ∀ f : BcdField, ∀ t ≤ f.row.encTensMask.toNat,
      BitVec.ofNat 8 (t <<< 4) &&& f.row.decTensMask = BitVec.ofNat 8 (t <<< 4) := by
    intro f; cases f <;> decide
  exact key f _ Nat.and_le_right

/-- The units digit of an encode stands in the units field. -/
theorem units_and_unitsMask (f : BcdField) (n : Nat) :
    BitVec.ofNat 8 (n &&& f.row.unitsMask.toNat) &&& f.row.unitsMask = BitVec.ofNat 8 (n &&& f.row.unitsMask.toNat) := by
  rw [← BitVec.setWidth_eq f.row.unitsMask, ← BitVec.ofNat_toNat, ← BitVec.ofNat_and]
  simp

theorem encodeField_and_decTensMask (f : BcdField) (v : Nat) (c : Byte) :
    encodeField f v c &&& f.row.decTensMask = BitVec.ofNat 8 ((v / 10 &&& f.row.encTensMask.toNat) <<< 4) := by
  have units := and_eq_zero_of_disjoint (units_and_unitsMask f (v % 10))
    (n := f.row.decTensMask) (by rw [BitVec.and_comm, decTensMask_and_unitsMask])
  rw [encodeField, bcdEncode, BitVec.and_or_distrib_right, BitVec.and_or_distrib_right, tens_and_decTensMask, units,
    BitVec.and_assoc, preserveMask_and_decTensMask, BitVec.and_zero, BitVec.zero_or, BitVec.or_zero]

theorem encodeField_and_unitsMask (f : BcdField) (v : Nat) (c : Byte) :
    encodeField f v c &&& f.row.unitsMask = BitVec.ofNat 8 (v % 10) := by
  have tens := and_eq_zero_of_disjoint (tens_and_decTensMask f (v / 10)) (decTensMask_and_unitsMask f)
  rw [encodeField, bcdEncode, BitVec.and_or_distrib_right, BitVec.and_or_distrib_right, tens, units_and_unitsMask,
    BitVec.and_assoc, preserveMask_and_unitsMask, BitVec.and_zero, BitVec.zero_or, BitVec.zero_or, mod_ten_and_unitsMask]

/-- An encode has no bit outside the preserved bits and the two digits. -/
theorem encodeField_and_masks (f : BcdField) (v : Nat) (c : Byte) :
    encodeField f v c &&& (f.row.preserveMask ||| f.row.decTensMask ||| f.row.unitsMask) = encodeField f v c := by
  rw [BitVec.and_or_distrib_left, BitVec.and_or_distrib_left, encodeField_and_preserveMask, encodeField_and_decTensMask,
    encodeField_and_unitsMask, encodeField, bcdEncode, mod_ten_and_unitsMask]

/-! ### Decode after encode (R132) -/

/-- Decode gives back the tens count, reduced to its field, and the units digit. -/
theorem decodeField_encodeField (f : BcdField) (v : Nat) (c : Byte) :
    decodeField f (encodeField f v c) = v / 10 % (f.row.encTensMask.toNat + 1) * 10 + v % 10 := by
  have shifted : ∀ t ≤ 15, (BitVec.ofNat 8 (t <<< 4) >>> 4).toNat = t := by decide
  have mask : f.row.encTensMask.toNat ≤ 15 := by cases f <;> decide
  have shift : f.row.tensShift = 4 := by cases f <;> rfl
  rw [decodeField, bcdDecode, encodeField_and_decTensMask, encodeField_and_unitsMask, shift,
    shifted _ (Nat.and_le_right.trans mask), and_encTensMask, BitVec.toNat_ofNat]
  omega

theorem decodeField_encodeField_eq_iff (f : BcdField) (v : Nat) (c : Byte) :
    decodeField f (encodeField f v c) = v ↔ v ≤ f.row.encTensMask.toNat * 10 + 9 := by
  rw [decodeField_encodeField]
  generalize f.row.encTensMask.toNat = m
  have fits : v / 10 % (m + 1) = v / 10 ↔ v / 10 < m + 1 := Nat.mod_eq_iff_lt (Nat.succ_ne_zero m)
  omega

end Sys2Proof.Machine

namespace Sys2Proof.Claims

open Sys2Proof.Machine

/-! ### The formulas of R130 and R131 -/

theorem decodeField_eq_digits (f : BcdField) (b : Byte) : decodeField f b = digits f.row.decTensMask b := by
  cases f <;> rfl

theorem encodeField_eq_packed (f : BcdField) (v : Nat) (c : Byte) :
    encodeField f v c = packed f.row.encTensMask.toNat f.row.preserveMask v c := by
  rw [encodeField, bcdEncode, mod_ten_and_unitsMask, Nat.shiftLeft_eq, packed]

/-- The byte with every bit set has the greatest digits. -/
theorem digits_le (tensMask b : Byte) : digits tensMask b ≤ digits tensMask 0xFF := by
  have under (m : Byte) : (b &&& m).toNat ≤ (0xFF &&& m).toNat := by
    rw [show 0xFF &&& m = m from BitVec.allOnes_and]
    exact Nat.and_le_right
  have tens : ((b &&& tensMask) >>> 4).toNat ≤ ((0xFF &&& tensMask) >>> 4).toNat := by
    simpa only [BitVec.toNat_ushiftRight, Nat.shiftRight_eq_div_pow] using Nat.div_le_div_right (under tensMask)
  exact Nat.add_le_add (Nat.mul_le_mul_right 10 tens) (under 0x0F)

/-! ### The pure operations (R134 to R147) -/

/-- A decode operation replies with its number; of its word only the low byte is read. -/
theorem decodeRule_of_plan {op : Byte} {mk : Byte → Instr} {f : Byte → Nat}
    (spelled : ∀ m reserved b, decode m (word op reserved b) = .ok (mk b))
    (plan : ∀ b s, planOf (mk b) s = .reply (.value (f b))) (bound : ∀ b, f b ≤ f 0xFF) :
    DecodeRule op mk f (f 0xFF) :=
  fun m _ reserved b => ⟨spelled m reserved b, exec_reply_value (plan b _), bound b, rfl⟩

theorem decodeRule_of_field (f : BcdField) {op : Byte} {mk : Byte → Instr}
    (spelled : ∀ m reserved b, decode m (word op reserved b) = .ok (mk b))
    (plan : ∀ b s, planOf (mk b) s = .reply (.value (decodeField f b))) :
    DecodeRule op mk (digits f.row.decTensMask) (digits f.row.decTensMask 0xFF) :=
  decodeRule_of_plan spelled (fun b s => by rw [plan, decodeField_eq_digits]) (digits_le _)

/-- An encode operation replies with its byte. -/
theorem encodeRule_of_plan {op : Byte} {mk : Byte → Byte → Instr} {f : Byte → Byte → Byte}
    (spelled : ∀ m v c, decode m (word op c v) = .ok (mk v c))
    (plan : ∀ v c s, planOf (mk v c) s = .reply (.value (f v c).toNat)) : EncodeRule op mk f :=
  fun m s v c => ⟨spelled m v c, by rw [exec_reply_value (plan v c s), BitVec.ofNat_toNat]⟩

theorem encodeRule_of_field (f : BcdField) {op : Byte} {mk : Byte → Byte → Instr}
    (spelled : ∀ m v c, decode m (word op c v) = .ok (mk v c))
    (plan : ∀ v c s, planOf (mk v c) s = .reply (.value (encodeField f v.toNat c).toNat)) :
    EncodeRule op mk fun v => packed f.row.encTensMask.toNat f.row.preserveMask v.toNat :=
  encodeRule_of_plan spelled fun v c s => by rw [plan, encodeField_eq_packed]

/-! ### The obligations -/

/-- Settles O18: decode gives the tens count modulo the size of its field (`decodeField_encodeField`). -/
theorem decodeUndoesEncodeExactlyWhereTensFit : Obligations.DecodeUndoesEncodeExactlyWhereTensFit := by
  intro v c
  have roundTrip (f : BcdField) := decodeField_encodeField_eq_iff f v c
  exact ⟨roundTrip .sec, roundTrip .min, roundTrip .hour, roundTrip .date, roundTrip .mon, roundTrip .yr⟩

/-- Settles O19: an encode under each of the three masks of its row, which are disjoint. -/
theorem encodePreservesTheControlBits : Obligations.EncodePreservesTheControlBits := by
  intro f v c
  refine ⟨encodeField_and_preserveMask f v c, ?_, ?_, ?_⟩
  · exact and_eq_zero_of_disjoint (encodeField_and_masks f v c) (BitVec.and_not_self _)
  · cases f <;> decide
  · rw [encodeField_and_unitsMask, BitVec.toNat_ofNat]
    omega

/-- Settles O16: each operation replies with the decode of its row of constants, or with the day code. -/
theorem decodeOperationsReturnTheField : Obligations.DecodeOperationsReturnTheField :=
  ⟨decodeRule_of_field .sec (by simp [decode]) fun _ _ => rfl,
    decodeRule_of_field .min (by simp [decode]) fun _ _ => rfl,
    decodeRule_of_field .hour (by simp [decode]) fun _ _ => rfl,
    decodeRule_of_field .date (by simp [decode]) fun _ _ => rfl,
    decodeRule_of_field .mon (by simp [decode]) fun _ _ => rfl,
    decodeRule_of_field .yr (by simp [decode]) fun _ _ => rfl,
    decodeRule_of_plan (by simp [decode]) (fun _ _ => rfl) fun _ => Nat.and_le_right⟩

/-- Settles O17: each operation replies with the encode of its row of constants, or with the day byte. -/
theorem encodeOperationsComposeTheByte : Obligations.EncodeOperationsComposeTheByte :=
  ⟨encodeRule_of_field .sec (by simp [decode]) fun _ _ _ => rfl,
    encodeRule_of_field .min (by simp [decode]) fun _ _ _ => rfl,
    encodeRule_of_field .hour (by simp [decode]) fun _ _ _ => rfl,
    encodeRule_of_field .date (by simp [decode]) fun _ _ _ => rfl,
    encodeRule_of_field .mon (by simp [decode]) fun _ _ _ => rfl,
    encodeRule_of_field .yr (by simp [decode]) fun _ _ _ => rfl,
    encodeRule_of_plan (by simp [decode]) fun _ _ _ => rfl⟩

end Sys2Proof.Claims
end

section
/-! PROOF. Settles the statements of the century tracker: what `DECYEAR` and `PREPYEAR` answer (R161, R162), and the year that
stands in (`baseline`, CENT, Year) after a `SET.YEAR` that nothing disturbs (R46, R160, R208, R276). -/

namespace Sys2Proof.Machine

/-! ### A year and its two parts (R14, R161, R162) -/

theorem shortYearOf_toNat (y : Year) : (shortYearOf y).toNat = y.toNat % 100 := by
  rw [shortYearOf, BitVec.toNat_ofNat]
  omega

/-- A short year fits the two digits of Year, so its byte decodes to it. -/
theorem decodeField_yr_shortYearOf (y : Year) :
    decodeField .yr (encodeField .yr (shortYearOf y).toNat 0) = y.toNat % 100 := by
  rw [shortYearOf_toNat]
  exact (decodeField_encodeField_eq_iff .yr _ 0).2 <|
    (Nat.mod_lt y.toNat (by decide)).le.trans (by decide : 100 ≤ BcdField.yr.row.encTensMask.toNat * 10 + 9)

/-- A year is its century and its short year; CENT stands for 100 years beside them. -/
theorem fullYearOf_centuryOf (y : Year) (cent : Bool) :
    fullYearOf (centuryOf y) (encodeField .yr (shortYearOf y).toNat 0) cent = if cent then y + 100 else y := by
  apply BitVec.eq_of_toNat_eq
  rw [fullYearOf, BitVec.toNat_ofNat, centuryOf_toNat, decodeField_yr_shortYearOf]
  have bound := y.isLt
  cases cent with
  | false => simp only [Bool.false_eq_true, if_false]; omega
  | true =>
    have hundred : (100 : Year).toNat = 100 := rfl
    simp only [if_true, BitVec.toNat_add, hundred]
    omega

/-! ### `prepareYearWrite` (R162) -/

theorem commitBaseline_of_change {s : State} {y : Year} (h : needsOverflowReset s y = true) :
    commitBaseline y s = s.setBaseline (centuryOf y) := if_pos h

theorem commitBaseline_of_same {s : State} {y : Year} (h : needsOverflowReset s y = false) : commitBaseline y s = s := by
  simp [commitBaseline, h]

theorem yearBundle_eq (y : Year) (s : State) :
    yearBundle y s = .ok (centuryOf y) (shortYearOf y) (needsOverflowReset s y) := by
  rw [yearBundle, commitBaseline_baseline]

theorem exec_prepYear (y : Year) (s : State) :
    exec (.prepYear y) s =
      .next (deliver (.ok (centuryOf y) (shortYearOf y) (needsOverflowReset s y)) (commitBaseline y s)) := by
  rw [← yearBundle_eq]
  rfl

/-! ### `SET.YEAR` and `GET.YEAR` that nothing disturbs (R188, R208) -/

theorem quiet_of_le {m n : Nat} {e : List EnvMove} (h : quiet n e = true) (le : m ≤ n) : quiet m e = true := by
  induction m generalizing n e with
  | zero => rfl
  | succ m ih =>
    obtain ⟨k, rfl⟩ := Nat.exists_eq_add_of_le' le
    cases e with
    | nil => rfl
    | cons move e =>
      cases move with
      | tick t => cases h
      | answer ok =>
        obtain ⟨answered, rest⟩ : ok = true ∧ quiet (k + m) e = true := by simpa [quiet, ← Nat.add_assoc] using h
        simp [quiet, answered, ih rest (Nat.le_add_left m k)]

theorem centBit_clearBit7 (b : Byte) : centBit (clearBit7 b) = false := haltBit_clearBit7 b

/-- The block and the registers hold the year `y`, beside the given CENT. -/
structure HoldsYear (t : State) (y : Year) (cent : Bool) : Prop where
  baseline : t.baseline = centuryOf y
  year : t.readReg .year = encodeField .yr (shortYearOf y).toNat 0
  cent : centBit (t.readReg .centHours) = cent

theorem HoldsYear.displayedYear {t : State} {y : Year} {cent : Bool} (h : HoldsYear t y cent) :
    t.displayedYear = if cent then y + 100 else y := by
  rw [State.displayedYear, h.baseline, h.year, h.cent, fullYearOf_centuryOf]

/-- With CENT 0 the pair counts from the century of the year. -/
theorem HoldsYear.consistentWith {t : State} {y : Year} (h : HoldsYear t y false) :
    t.consistentWith (y.toNat / 100 * 100) := by
  rw [State.consistentWith, h.baseline, h.cent, centuryOf_toNat]
  rfl

/-- A read-modify-write that nothing disturbs, up to the rest of the operation. -/
theorem run_modifyPlan_of_quiet {n : Nat} {s : State} (hq : quiet (n + 3) s.env = true) (r : Register) (f : Byte → Byte)
    (p : Plan) :
    ∃ u, (modifyPlan r f p).run s = p.run u ∧ u.baseline = s.baseline ∧ u.readReg r = f (s.readReg r) ∧
      quiet n u.env = true := by
  obtain ⟨hread, -, rest⟩ := run_read_of_quiet hq r fun t => .write r (f t) p
  obtain ⟨hwrite, -, last⟩ := run_write_of_quiet rest r (f (s.readReg r)) p
  exact ⟨_, hread.trans hwrite, by simp, writeDone_readReg_same _ _ _, last⟩

/-- The write of Year with which `SET.YEAR` ends. -/
theorem run_writeYear_of_quiet {n : Nat} {s : State} {y : Year} (hq : quiet (n + 1) s.env = true)
    (hb : s.baseline = centuryOf y) (b : Bundle) :
    let t := (Plan.write .year (encodeField .yr (shortYearOf y).toNat 0) (.finish b)).run s
    HoldsYear t y (centBit (s.readReg .centHours)) ∧ quiet n t.env = true := by
  obtain ⟨hrun, hreg, rest⟩ := run_write_of_quiet hq .year (encodeField .yr (shortYearOf y).toNat 0) (.finish b)
  simp only [hrun, Plan.run_finish]
  refine ⟨⟨?_, ?_, ?_⟩, rest⟩
  · rw [finish_baseline, writeDone_baseline, hb]
  · rw [finish_readReg, writeDone_readReg_same]
  · rw [finish_readReg, State.readReg, hreg, Memory.read_write_other (by decide), State.readReg]

/-- A change of century clears CENT; a set into the century of `baseline` leaves it (R276). -/
theorem run_planSetYear_of_quiet {n : Nat} {s : State} (y : Year) (hq : quiet (n + 4) s.env = true) :
    let t := (planSetYear y s).run s
    HoldsYear t y (!needsOverflowReset s y && centBit (s.readReg .centHours)) ∧ quiet n t.env = true := by
  rw [planSetYear, Plan.run_commit]
  cases hn : needsOverflowReset s y with
  | false =>
    have written := run_writeYear_of_quiet (n := n) (s := commitBaseline y s) (y := y)
      (by rw [commitBaseline_env]; exact quiet_of_le hq (by omega)) (commitBaseline_baseline y s) (yearBundle y s)
    simpa using written
  | true =>
    obtain ⟨u, hrun, hbase, hcent, rest⟩ := run_modifyPlan_of_quiet (n := n + 1) (s := commitBaseline y s)
      (by rwa [commitBaseline_env]) .centHours clearBit7
      (.write .year (encodeField .yr (shortYearOf y).toNat 0) (.finish (yearBundle y s)))
    have written := run_writeYear_of_quiet rest (hbase.trans (commitBaseline_baseline y s)) (yearBundle y s)
    rw [hcent, centBit_clearBit7] at written
    rwa [if_pos rfl, hrun]

/-- `GET.YEAR` reads both bytes from the same registers, so it shows the year they display. -/
theorem run_planGetYear_of_quiet {s : State} (hq : quiet 4 s.env = true) :
    ∃ calls, ((planGetYear s).run s).port = s.port ++ calls ++ [.result (.ok s.displayedYear 0 false)] := by
  obtain ⟨hyear, hreg, rest⟩ := run_read_of_quiet hq .year fun y => .read .centHours fun c =>
    .finish (.ok (fullYearOf s.baseline y (centBit c)) 0 false)
  obtain ⟨hcent, -, -⟩ := run_read_of_quiet rest .centHours fun c =>
    .finish (.ok (fullYearOf s.baseline (s.readReg .year) (centBit c)) 0 false)
  have same : (readDone .year s).readReg .centHours = s.readReg .centHours := by
    rw [State.readReg, hreg, State.readReg]
  rw [planGetYear, hyear, hcent, same]
  exact ⟨_, by rw [Plan.run_finish, finish_port, readDone_port, readDone_port, List.append_assoc s.port]; rfl⟩

end Sys2Proof.Machine

namespace Sys2Proof.Claims

open Sys2Proof.Machine

/-! ### The obligations -/

/-- Settles O21: the operation replies with a number, and the decode of the year byte in it is R130's. -/
theorem decYearAddsTheBaseline : Obligations.DecYearAddsTheBaseline := by
  refine ⟨by simp [decode], fun s b c => exec_reply_value ?_⟩
  have row : decodeField .yr b = digits 0xF0 b := decodeField_eq_digits .yr b
  rw [← row]
  rfl

/-- Settles O22, by whether `prepareYearWrite` changes `baseline`. -/
theorem prepYearAdoptsTheCentury : Obligations.PrepYearAdoptsTheCentury := by
  intro m s y
  refine ⟨by simp [decode], fun h => ?_, fun h => ?_⟩
  · have change := (needsOverflowReset_eq_true_iff s y).2 h
    rw [exec_prepYear, change, commitBaseline_of_change change]
    rfl
  · have same := (needsOverflowReset_eq_false_iff s y).2 h
    rw [exec_prepYear, ← commitBaseline_baseline y s, same, commitBaseline_of_same same]
    rfl

/-- Settles O35: `GET.YEAR` shows the year displayed, and that is the year set unless CENT stood and was not cleared. -/
theorem getYearAfterSetYear : Obligations.GetYearAfterSetYear := by
  intro s y hq
  obtain ⟨held, rest⟩ := run_planSetYear_of_quiet (n := 4) y hq
  obtain ⟨calls, hport⟩ := run_planGetYear_of_quiet rest
  refine ⟨_, _, calls, exec_eq_run _ s, exec_eq_run _ _, ?_⟩
  rw [held.displayedYear] at hport
  simpa [planOf, ← needsOverflowReset_eq_false_iff] using hport

/-- Settles O36: a change of century clears CENT, so the pair counts from the century set. -/
theorem centuryChangeMakesThePairConsistent : Obligations.CenturyChangeMakesThePairConsistent := by
  intro s y hq h
  obtain ⟨held, -⟩ := run_planSetYear_of_quiet (n := 0) y hq
  rw [(needsOverflowReset_eq_true_iff s y).2 h] at held
  exact ⟨_, exec_eq_run _ s, held.consistentWith, held.displayedYear⟩

end Sys2Proof.Claims
end

section
/-! PROOF. Settles the statements of run control: `START` and `STOP` are read-modify-writes of Seconds (R170, R171), each
is idempotent, and neither moves the seconds value (R172). -/

namespace Sys2Proof.Machine

/-! ### A read-modify-write up to its bundle, and a get after it -/

/-- A `MemWrite` after a `MemRead` of the same register changes that byte of what the peripheral made of `REG`. -/
theorem writeDone_readDone_reg (r : Register) (v : Byte) (s : State) :
    (writeDone r v (readDone r s)).reg = s.settle.settle.settle.reg.write r.key v := by
  rw [writeDone_reg, readDone_settle, State.withBlock_reg]

/-- A read-modify-write that nothing disturbs, to its bundle: one byte of `REG` changes. -/
theorem run_modifyPlan_finish_of_quiet {n : Nat} {s : State} (hq : quiet (n + 3) s.env = true) (r : Register)
    (f : Byte → Byte) (b : Bundle) :
    let t := (modifyPlan r f (.finish b)).run s
    t.reg = s.reg.write r.key (f (s.readReg r)) ∧ quiet n t.env = true := by
  obtain ⟨hread, held, rest⟩ := run_read_of_quiet hq r fun t => .write r (f t) (.finish b)
  obtain ⟨hwrite, written, last⟩ := run_write_of_quiet rest r (f (s.readReg r)) (.finish b)
  rw [held] at written
  simp only [modifyPlan, hread, hwrite]
  exact ⟨written, last⟩

/-- The second of two equal read-modify-writes by an idempotent change finds its byte already changed (R172). -/
theorem run_modifyPlan_finish_idempotent {s : State} (hq : quiet 6 s.env = true) (r : Register) {f : Byte → Byte}
    (hf : ∀ b, f (f b) = f b) (b : Bundle) (a : Nat) :
    let p := modifyPlan r f (.finish b)
    (p.run (p.run s)).reg.read a = (p.run s).reg.read a := by
  intro p
  obtain ⟨first, rest⟩ := run_modifyPlan_finish_of_quiet (n := 3) hq r f b
  obtain ⟨second, -⟩ := run_modifyPlan_finish_of_quiet (n := 0) rest r f b
  have modified : (p.run s).readReg r = f (s.readReg r) := by rw [State.readReg, first, Memory.read_write_same]
  rw [second, modified, hf, first, Memory.read_write, Memory.read_write]
  split <;> rfl

/-- A get that nothing disturbs shows the decode of the byte that stands in `REG`. -/
theorem run_getPlan_port_of_quiet {s : State} (hq : quiet 2 s.env = true) (r : Register) (f : Byte → Nat) :
    ∃ calls, ((getPlan r f).run s).port = s.port ++ calls ++ [.result (.value (f (s.readReg r)))] := by
  obtain ⟨hread, -, -⟩ := run_read_of_quiet (n := 0) hq r fun t => .finish (.value (f t))
  exact ⟨_, by rw [getPlan, hread, Plan.run_finish, finish_port, readDone_port]⟩

/-! ### HALT and the digits beside it (R92) -/

theorem clearBit7_clearBit7 (b : Byte) : clearBit7 (clearBit7 b) = clearBit7 b := clearBit7_and b

theorem setBit7_setBit7 (b : Byte) : setBit7 (setBit7 b) = setBit7 b := by
  rw [setBit7, setBit7, BitVec.or_assoc, BitVec.or_self]

/-- HALT stands outside both digits of Seconds. -/
theorem decodeField_sec_clearBit7 (b : Byte) : decodeField .sec (clearBit7 b) = decodeField .sec b := by
  have tens : clearBit7 b &&& 0x70 = b &&& 0x70 := BitVec.and_assoc b 0x7F 0x70
  have units : clearBit7 b &&& 0x0F = b &&& 0x0F := BitVec.and_assoc b 0x7F 0x0F
  simp only [decodeField, bcdDecode, BcdField.row, tens, units]

end Sys2Proof.Machine

namespace Sys2Proof.Claims

open Sys2Proof.Machine

/-! ### How an operation that does not write `baseline` aborts (R236, R237) -/

/-- A plan's failed calls and the block's state that they leave, as `Aborts` asks. -/
theorem Transacts.aborts {i : Instr} {s : State} {reads writes : Nat} (h : Transacts (planOf i s) reads writes)
    (hu : Uncommitted (planOf i s)) (fails : answersOk (2 * reads + writes) s.env = false) : Aborts i s s.baseline := by
  obtain ⟨calls, hport, hcalls⟩ := h.run_failed s fails
  have kept := hu.run_keepsBlock s
  exact ⟨_, calls, exec_eq_run i s, hport, hcalls.bundles, kept.baseline, kept.params, kept.host⟩

/-- An operation whose first read fails has made no other call, and a read sends no data byte (R72, R235). -/
theorem abortsUnwritten_of_read {i : Instr} {s : State} {r : Register} {next : Byte → Plan}
    (hplan : planOf i s = .read r next) (fails : answersOk 2 s.env = false) : AbortsUnwritten i s s.baseline := by
  obtain ⟨t, calls, ht, hfrom, hcalls⟩ := readThen_failed (r := r) (fun t s1 => (next t).run s1) fails
  have hrun : exec i s = .next (abort t) := by rw [exec_eq_run, hplan, Plan.run_read, ht]
  have hport : (abort t).port = s.port ++ calls ++ [.result .transportError] := by rw [abort, finish_port, hfrom.port]
  refine ⟨_, calls, hrun, hport, ?_, ?_, hfrom.baseline, hfrom.params, hfrom.host⟩
  · rcases hcalls with rfl | rfl <;> rfl
  · rcases hcalls with rfl | rfl <;> simp

/-! ### A read-modify-write, answered and failed (R69, R76) -/

theorem completes_modifyPlan {i : Instr} {s : State} {r : Register} {f : Byte → Byte}
    (hplan : planOf i s = modifyPlan r f (.finish .empty)) (ok : answersOk 3 s.env = true) :
    Completes i s (readCalls s r (s.settle.settle.readReg r) ++ writeCall s r (f (s.settle.settle.readReg r)))
      (.ok 0 0 false) s.baseline s.settle.settle.settle.env
      (withReg s.settle.settle.settle r (f (s.settle.settle.readReg r))) := by
  refine ⟨finish .empty (writeDone r (f (s.settle.settle.readReg r)) (readDone r s)), ?_, ?_, ?_, fun a => ?_, rfl, ?_,
    ?_, rfl⟩
  · rw [exec_eq_run, hplan, run_modifyPlan_ok ok, Plan.run_finish]
  · simp [readCalls, writeCall, Bundle.empty]
  · simp
  · rw [finish_reg, writeDone_readDone_reg, Memory.read_write, withReg]
  · simp
  · simp

theorem modifyRule_of_plan {i : Instr} {r : Register} {f : Byte → Byte}
    (hplan : ∀ s, planOf i s = modifyPlan r f (.finish .empty)) : ModifyRule i r f := by
  refine fun s => ⟨completes_modifyPlan (hplan s), abortsUnwritten_of_read (hplan s), fun fails => ?_⟩
  have transacts : Transacts (planOf i s) 1 1 := hplan s ▸ transacts_modifyPlan r f (.finish rfl)
  exact transacts.aborts (hplan s ▸ uncommitted_modifyPlan r f (.finish _)) fails

/-! ### The obligations -/

/-- Settles O24: `START` runs a read-modify-write of Seconds that clears bit 7. -/
theorem startClearsHaltByReadModifyWrite : Obligations.StartClearsHaltByReadModifyWrite :=
  ⟨by simp [decode], modifyRule_of_plan fun _ => rfl⟩

/-- Settles O25: `STOP` runs a read-modify-write of Seconds that sets bit 7. -/
theorem stopSetsHaltByReadModifyWrite : Obligations.StopSetsHaltByReadModifyWrite :=
  ⟨by simp [decode], modifyRule_of_plan fun _ => rfl⟩

/-- Settles O27: clearing and setting bit 7 are idempotent (`run_modifyPlan_finish_idempotent`). -/
theorem startAndStopAreIdempotent : Obligations.StartAndStopAreIdempotent := by
  intro s hq i hi
  refine ⟨_, _, exec_eq_run i s, exec_eq_run i _, ?_⟩
  obtain rfl | rfl : i = .start ∨ i = .stop := by simpa using hi
  · exact run_modifyPlan_finish_idempotent hq .seconds clearBit7_clearBit7 .empty
  · exact run_modifyPlan_finish_idempotent hq .seconds setBit7_setBit7 .empty

/-- Settles O28: the get decodes the byte that `START` wrote, and its digits are those of the byte before. -/
theorem startKeepsTheSeconds : Obligations.StartKeepsTheSeconds := by
  intro s hq
  obtain ⟨written, rest⟩ := run_modifyPlan_finish_of_quiet (n := 2) hq .seconds clearBit7 .empty
  have modified : (planStart.run s).readReg .seconds = clearBit7 (s.readReg .seconds) := by
    rw [State.readReg, planStart, written, Memory.read_write_same]
  obtain ⟨calls, hport⟩ := run_getPlan_port_of_quiet (s := planStart.run s) rest .seconds (decodeField .sec)
  rw [modified, decodeField_sec_clearBit7, decodeField_eq_digits] at hport
  exact ⟨_, _, exec_eq_run _ s, exec_eq_run _ _, calls, hport⟩

end Sys2Proof.Claims
end

section
/-! PROOF. Settles the statements of the get operations: one read and the decode of its byte (R181 to R187), and the two reads
of `GET.YEAR` (R188). -/

namespace Sys2Proof.Machine

/-! ### Reads in sequence -/

/-- What the peripheral does over two calls after a `MemRead` is what it would have done without it. -/
theorem readDone_settle_settle (r : Register) (s : State) :
    (readDone r s).settle.settle = s.settle.settle.settle.settle.withBlock s.baseline (s.settle.settle.readReg r) false
      (readDone r s).port := by
  rw [readDone_settle, State.settle_withBlock]

theorem run_planGetYear_ok {s : State} (ok : answersOk 4 s.env = true) :
    let u := s.settle.settle
    (planGetYear s).run s =
      finish (.ok (fullYearOf s.baseline (u.readReg .year) (centBit (u.settle.settle.readReg .centHours))) 0 false)
        (readDone .centHours (readDone .year s)) := by
  rw [answersOk_add_two, Bool.and_eq_true] at ok
  obtain ⟨first, second⟩ := ok
  rw [planGetYear, Plan.run_read, readThen_ok first, Plan.run_read, readThen_ok second, Plan.run_finish,
    readDone_settle_settle, State.withBlock_readReg]

end Sys2Proof.Machine

namespace Sys2Proof.Claims

open Sys2Proof.Machine

/-! ### A get of one register, answered and failed (R180) -/

theorem completes_getPlan {i : Instr} {s : State} {r : Register} {f : Byte → Nat} (hplan : planOf i s = getPlan r f)
    (ok : answersOk 2 s.env = true) :
    Completes i s (readCalls s r (s.settle.settle.readReg r))
      (.ok (BitVec.ofNat 16 (f (s.settle.settle.readReg r))) 0 false) s.baseline s.settle.settle.env
      s.settle.settle.reg.read := by
  refine ⟨finish (.value (f (s.settle.settle.readReg r))) (readDone r s), ?_, rfl, ?_, fun _ => rfl, rfl, ?_, ?_, rfl⟩
  · rw [exec_eq_run, hplan, run_getPlan_ok ok]
  all_goals simp

/-- A get makes one read; of its word only the `op` is read. -/
theorem getRule_of_plan {op : Byte} {i : Instr} {r : Register} {f : Byte → Nat}
    (spelled : ∀ m arg, decode m (wordYear op arg) = .ok i) (plan : ∀ s, planOf i s = getPlan r f) : GetRule op i r f :=
  ⟨spelled, fun s => ⟨completes_getPlan (plan s), abortsUnwritten_of_read (plan s)⟩⟩

theorem getRule_of_field (f : BcdField) {op : Byte} {i : Instr} (spelled : ∀ m arg, decode m (wordYear op arg) = .ok i)
    (plan : ∀ s, planOf i s = getFieldPlan f) : GetRule op i f.row.register (digits f.row.decTensMask) :=
  getRule_of_plan spelled fun s => by rw [plan, getFieldPlan, funext (decodeField_eq_digits f)]

/-! ### `GET.YEAR`, answered and failed (R188) -/

theorem completes_getYear {s : State} (ok : answersOk 4 s.env = true) :
    let u := s.settle.settle
    let v := u.settle.settle
    Completes .getYear s (readCalls s .year (u.readReg .year) ++ readCalls s .centHours (v.readReg .centHours))
      (.ok (fullYearOf s.baseline (u.readReg .year) (centBit (v.readReg .centHours))) 0 false)
      s.baseline v.env v.reg.read := by
  refine ⟨_, (exec_eq_run .getYear s).trans (congrArg _ (run_planGetYear_ok ok)), ?_, ?_, fun a => ?_, rfl, ?_, ?_, rfl⟩
  · simp [readCalls, readDone_settle_settle]
  · simp
  · rw [finish_reg, readDone_reg, readDone_settle_settle, State.withBlock_reg]
  · simp
  · simp

/-- A read that fails ends the operation whatever was to follow; its calls are at most two, and none carries a data byte
(R72, R235). -/
theorem run_read_failed (r : Register) {s : State} (fails : answersOk 2 s.env = false) :
    ∃ t calls, (∀ next, (Plan.read r next).run s = abort t) ∧ FailedFrom s calls t ∧ FailedCalls calls 2 ∧
      ∀ e ∈ calls, ∀ d bs ok, e ≠ .write d bs false ok := by
  obtain ⟨t, calls, ht, hfrom, hcalls⟩ := memRead_failed (r := r) fails
  refine ⟨t, calls, fun next => by rw [Plan.run_read, readThen, ht], hfrom, ?_, ?_⟩
  · rcases hcalls with rfl | rfl
    · exact (failedCalls_address _ _).mono (by decide)
    · exact failedCalls_data _ _
  · rcases hcalls with rfl | rfl <;> simp

/-- The first read fails, or it is answered and the second one fails. -/
theorem abortsUnwritten_getYear {s : State} (fails : answersOk 4 s.env = false) :
    AbortsUnwritten .getYear s s.baseline := by
  cases first : answersOk 2 s.env with
  | false => exact abortsUnwritten_of_read rfl first
  | true =>
    rw [answersOk_add_two, first, Bool.true_and] at fails
    obtain ⟨t, calls, ht, hfrom, hcalls, unwritten⟩ := run_read_failed .centHours (s := readDone .year s) fails
    have hrun : (planGetYear s).run s = abort t := by rw [planGetYear, Plan.run_read, readThen_ok first, ht]
    have kept := (keepsBlock_readDone .year s).trans hfrom.keepsBlock_abort
    refine ⟨_, readCalls s .year (s.settle.settle.readReg .year) ++ calls,
      (exec_eq_run .getYear s).trans (congrArg _ hrun), ?_, ?_, ?_, kept.baseline, kept.params, kept.host⟩
    · rw [abort, finish_port, hfrom.port, readDone_port, readCalls, List.append_assoc s.port]
    · rw [bundlesOf_append, hcalls.bundles]
      rfl
    · exact List.forall_mem_append.2 ⟨by simp [readCalls], unwritten⟩

/-! ### The obligations -/

/-- Settles O29: each get reads its register and applies the decode of its row of constants, or takes the day code. -/
theorem getOperationsDecodeOneRegister : Obligations.GetOperationsDecodeOneRegister :=
  ⟨getRule_of_field .sec (by simp [decode]) fun _ => rfl,
    getRule_of_field .min (by simp [decode]) fun _ => rfl,
    getRule_of_field .hour (by simp [decode]) fun _ => rfl,
    getRule_of_plan (by simp [decode]) fun _ => rfl,
    getRule_of_field .date (by simp [decode]) fun _ => rfl,
    getRule_of_field .mon (by simp [decode]) fun _ => rfl,
    getRule_of_field .yr (by simp [decode]) fun _ => rfl⟩

/-- Settles O30: both reads answered (`completes_getYear`), one of them failed (`abortsUnwritten_getYear`), or the first one
failed and its calls the only ones (`run_read_failed`). -/
theorem getYearReadsYearThenCentHours : Obligations.GetYearReadsYearThenCentHours := by
  refine ⟨by simp [decode], fun s => ⟨completes_getYear, abortsUnwritten_getYear, fun fails => ?_⟩⟩
  obtain ⟨t, calls, ht, hfrom, hcalls, -⟩ := run_read_failed .year fails
  exact ⟨_, calls, (exec_eq_run .getYear s).trans (congrArg _ (ht _)), by rw [abort, finish_port, hfrom.port], hcalls.length⟩

end Sys2Proof.Claims
end

section
/-! PROOF. Settles the statements of the set operations: the two that keep control bits (R200, R202), the five direct writes
(R201, R203 to R206), `SET.YEAR` (R208), and the get that follows a set (R132, R203, R207). -/

namespace Sys2Proof.Machine

/-! ### The writes of a set operation -/

/-- What the peripheral makes of `REG` after a read-modify-write is what it makes of it after the write alone. -/
theorem writeDone_readDone_settle (r : Register) (v : Byte) (s : State) :
    (writeDone r v (readDone r s)).settle = (s.settle.settle.settle.writeReg r v).settle.withBlock s.baseline
      (s.settle.settle.readReg r) false (writeDone r v (readDone r s)).port := by
  rw [← State.settle_withBlock]
  congr 1
  simp only [writeDone, readDone_settle]
  rfl

theorem setFieldPlan_of_readModifyWrite {f : BcdField} (h : f.row.discipline = .readModifyWrite) (v : Byte) :
    setFieldPlan f v = modifyPlan f.row.register (encodeField f v.toNat) (.finish .empty) := by
  simp only [setFieldPlan, h]

theorem setFieldPlan_of_directWrite {f : BcdField} (h : f.row.discipline = .directWrite) (v : Byte) :
    setFieldPlan f v = writePlan f.row.register (encodeField f v.toNat 0) := by
  simp only [setFieldPlan, h]

/-- A direct write that nothing disturbs leaves its byte in its register. -/
theorem run_writePlan_of_quiet {n : Nat} {s : State} (hq : quiet (n + 1) s.env = true) (r : Register) (v : Byte) :
    let t := (writePlan r v).run s
    t.readReg r = v ∧ quiet n t.env = true := by
  obtain ⟨hrun, -, rest⟩ := run_write_of_quiet hq r v (.finish .empty)
  simp only [writePlan, hrun, Plan.run_finish]
  exact ⟨by rw [finish_readReg, writeDone_readReg_same], rest⟩

/-- A set of a field that nothing disturbs leaves an encode of the value in the field's register. -/
theorem run_setFieldPlan_of_quiet {n : Nat} {s : State} (hq : quiet (n + 3) s.env = true) (f : BcdField) (v : Byte) :
    let t := (setFieldPlan f v).run s
    (∃ c, t.readReg f.row.register = encodeField f v.toNat c) ∧ quiet n t.env = true := by
  cases h : f.row.discipline with
  | readModifyWrite =>
    rw [setFieldPlan_of_readModifyWrite h]
    obtain ⟨written, rest⟩ := run_modifyPlan_finish_of_quiet hq f.row.register (encodeField f v.toNat) .empty
    exact ⟨⟨s.readReg f.row.register, by rw [State.readReg, written, Memory.read_write_same]⟩, rest⟩
  | directWrite =>
    rw [setFieldPlan_of_directWrite h]
    obtain ⟨written, rest⟩ := run_writePlan_of_quiet hq f.row.register (encodeField f v.toNat 0)
    exact ⟨⟨0, written⟩, quiet_of_le rest (Nat.le_add_right n 2)⟩

/-! ### `SET.YEAR` and the tracker (R208) -/

@[simp] theorem State.setBaseline_settle (s : State) (v : Year) : (s.setBaseline v).settle = s.settle.setBaseline v :=
  (s.settle_withBlock v s.latch s.busHeld s.port).trans (by simp [State.withBlock, State.setBaseline])

@[simp] theorem State.setBaseline_writeReg (s : State) (v : Year) (r : Register) (b : Byte) :
    (s.setBaseline v).writeReg r b = (s.writeReg r b).setBaseline v := rfl

@[simp] theorem State.setBaseline_withBlock (s : State) (v b : Year) (l : Byte) (h : Bool) (p : List PortEvent) :
    (s.setBaseline v).withBlock b l h p = s.withBlock b l h p := rfl

theorem centuryOf_of_same {s : State} {y : Year} (same : needsOverflowReset s y = false) : centuryOf y = s.baseline := by
  rw [← commitBaseline_baseline y s, commitBaseline_of_same same]

/-- The write of Year with which `SET.YEAR` ends. -/
def yearWrite (y : Year) (s : State) : Plan :=
  .write .year (encodeField .yr (shortYearOf y).toNat 0) (.finish (yearBundle y s))

theorem run_planSetYear_of_same {s : State} {y : Year} (same : needsOverflowReset s y = false) :
    (planSetYear y s).run s = (yearWrite y s).run s := by
  rw [planSetYear, Plan.run_commit, commitBaseline_of_same same, same]
  rfl

theorem run_planSetYear_of_change {s : State} {y : Year} (change : needsOverflowReset s y = true) :
    (planSetYear y s).run s =
      (modifyPlan .centHours clearBit7 (yearWrite y s)).run (s.setBaseline (centuryOf y)) := by
  rw [planSetYear, Plan.run_commit, commitBaseline_of_change change, change]
  rfl

/-- The state in which `SET.YEAR` has adopted another century and cleared CENT. -/
def centCleared (y : Year) (s : State) : State :=
  writeDone .centHours (clearBit7 (s.settle.settle.readReg .centHours)) (readDone .centHours (s.setBaseline (centuryOf y)))

theorem centCleared_settle (y : Year) (s : State) :
    let u := s.settle.settle
    (centCleared y s).settle = (u.settle.writeReg .centHours (clearBit7 (u.readReg .centHours))).settle.withBlock
      (centuryOf y) (u.readReg .centHours) false (centCleared y s).port := by
  simp [centCleared, writeDone_readDone_settle]

theorem run_planSetYear_ok_of_change {s : State} {y : Year} (change : needsOverflowReset s y = true)
    (ok : answersOk 4 s.env = true) :
    (planSetYear y s).run s =
      finish (yearBundle y s) (writeDone .year (encodeField .yr (shortYearOf y).toNat 0) (centCleared y s)) := by
  obtain ⟨modified, written⟩ : answersOk 3 s.env = true ∧ nextAnswer (centCleared y s).env = true := by
    simpa [answersOk, centCleared, and_assoc] using ok
  have hcleared : (modifyPlan .centHours clearBit7 (yearWrite y s)).run (s.setBaseline (centuryOf y)) =
      (yearWrite y s).run (centCleared y s) := by
    rw [run_modifyPlan_ok (by exact modified), centCleared]
    simp
  rw [run_planSetYear_of_change change, hcleared, yearWrite, Plan.run_write, writeThen_ok written, Plan.run_finish]

/-! ### The day code (R99) -/

theorem decodeDay_encodeDay {v : Byte} (h : v &&& dayMask = v) : decodeDay (encodeDay v) = v.toNat := by
  rw [encodeDay, h, decodeDay, h]

theorem and_dayMask_of_le {v : Byte} (h : v.toNat ≤ 7) : v &&& dayMask = v := by
  apply BitVec.eq_of_toNat_eq
  have low : v.toNat &&& 7 = v.toNat % 8 := Nat.and_two_pow_sub_one_eq_mod v.toNat 3
  exact low.trans (Nat.mod_eq_of_lt (by omega))

end Sys2Proof.Machine

namespace Sys2Proof.Claims

open Sys2Proof.Machine

/-! ### The sets of one register, answered and failed (R207) -/

/-- An operation that comes down to one write and its bundle. -/
theorem completes_write {i : Instr} {s : State} {r : Register} {v : Byte} {b : Bundle}
    (hrun : (planOf i s).run s = (Plan.write r v (.finish b)).run s) (ok : answersOk 1 s.env = true) :
    Completes i s (writeCall s r v) b s.baseline s.settle.env (withReg s.settle r v) := by
  have answered : nextAnswer s.env = true := by simpa [answersOk] using ok
  refine ⟨finish b (writeDone r v s), ?_, rfl, ?_, fun a => ?_, rfl, ?_, ?_, rfl⟩
  · rw [exec_eq_run, hrun, Plan.run_write, writeThen_ok answered, Plan.run_finish]
  · simp
  · rw [finish_reg, writeDone_reg, Memory.read_write, withReg]
  · simp
  · simp

theorem writeRule_of_plan {i : Instr} {r : Register} {v : Byte} (hplan : ∀ s, planOf i s = writePlan r v) :
    WriteRule i r v := by
  refine fun s => ⟨completes_write (by rw [hplan, writePlan]; rfl), fun fails => ?_⟩
  have transacts : Transacts (planOf i s) 0 1 := hplan s ▸ transacts_writePlan r v
  exact transacts.aborts (hplan s ▸ uncommitted_writePlan r v) fails

theorem writeRule_of_field (f : BcdField) (h : f.row.discipline = .directWrite) {i : Instr} {v : Byte}
    (hplan : ∀ s, planOf i s = setFieldPlan f v) :
    WriteRule i f.row.register (packed f.row.encTensMask.toNat f.row.preserveMask v.toNat 0) :=
  writeRule_of_plan fun s => by rw [hplan, setFieldPlan_of_directWrite h, encodeField_eq_packed]

theorem modifyRule_of_field (f : BcdField) (h : f.row.discipline = .readModifyWrite) {i : Instr} {v : Byte}
    (hplan : ∀ s, planOf i s = setFieldPlan f v) :
    ModifyRule i f.row.register (packed f.row.encTensMask.toNat f.row.preserveMask v.toNat) :=
  modifyRule_of_plan fun s => by
    rw [hplan, setFieldPlan_of_readModifyWrite h, funext (encodeField_eq_packed f v.toNat)]

/-! ### `SET.YEAR`, answered and failed (R208) -/

/-- The byte that `SET.YEAR` writes to Year, by the formula of R131. -/
theorem encodeField_yr_shortYearOf (y : Year) :
    encodeField .yr (shortYearOf y).toNat 0 = packed 0x0F 0 (y.toNat % 100) 0 := by
  rw [shortYearOf_toNat]
  exact encodeField_eq_packed .yr _ 0

theorem completes_setYear_of_same {s : State} {y : Year} (same : needsOverflowReset s y = false)
    (ok : answersOk 1 s.env = true) :
    let yearByte := encodeField .yr (shortYearOf y).toNat 0
    Completes (.setYear y) s (writeCall s .year yearByte) (.ok s.baseline (shortYearOf y) false) s.baseline s.settle.env
      (withReg s.settle .year yearByte) := by
  have bundle : yearBundle y s = .ok s.baseline (shortYearOf y) false := by
    rw [yearBundle_eq, same, centuryOf_of_same same]
  rw [← bundle]
  exact completes_write (run_planSetYear_of_same same) ok

theorem completes_setYear_of_change {s : State} {y : Year} (change : needsOverflowReset s y = true)
    (ok : answersOk 4 s.env = true) :
    let u := s.settle.settle
    let cleared := clearBit7 (u.readReg .centHours)
    let v := (u.settle.writeReg .centHours cleared).settle
    let yearByte := encodeField .yr (shortYearOf y).toNat 0
    Completes (.setYear y) s
      (readCalls s .centHours (u.readReg .centHours) ++ writeCall s .centHours cleared ++ writeCall s .year yearByte)
      (.ok (centuryOf y) (shortYearOf y) true) (centuryOf y) v.env (withReg v .year yearByte) := by
  intro u cleared v yearByte
  have held : (centCleared y s).settle.reg = v.reg := by rw [centCleared_settle, State.withBlock_reg]
  refine ⟨_, (exec_eq_run _ s).trans (congrArg _ (run_planSetYear_ok_of_change change ok)), ?_, ?_, fun a => ?_, rfl, ?_,
    ?_, rfl⟩
  · simp [centCleared, readCalls, writeCall, yearBundle_eq, change, u, cleared, yearByte]
  · simp [centCleared]
  · rw [finish_reg, writeDone_reg, held, Memory.read_write, withReg]
  · simp [centCleared]
  · simp [centCleared]

/-- The tracker has adopted the century when the read that is to clear CENT fails (R237). -/
theorem abortsUnwritten_setYear_of_change {s : State} {y : Year} (change : needsOverflowReset s y = true)
    (fails : answersOk 2 s.env = false) : AbortsUnwritten (.setYear y) s (centuryOf y) := by
  obtain ⟨t, calls, ht, hfrom, hcalls, unwritten⟩ :=
    run_read_failed .centHours (s := s.setBaseline (centuryOf y)) fails
  have hrun : (planSetYear y s).run s = abort t := (run_planSetYear_of_change change).trans (ht _)
  exact ⟨_, calls, (exec_eq_run _ s).trans (congrArg _ hrun), by rw [abort, finish_port, hfrom.port]; rfl,
    hcalls.bundles, unwritten, hfrom.baseline, hfrom.params, hfrom.host⟩

/-- Whichever of its calls fails, the tracker has adopted the century before the first (R237). -/
theorem aborts_setYear {s : State} {y : Year} (fails : answersOk (callCount (.setYear y) s) s.env = false) :
    Aborts (.setYear y) s (centuryOf y) := by
  rw [callCount_eq] at fails
  obtain ⟨calls, hport, hcalls⟩ := (transacts_planSetYear y s).run_failed s fails
  have kept := run_planOf_keepsBlock (.setYear y) s
  exact ⟨_, calls, exec_eq_run _ s, hport, hcalls.bundles, kept.baseline.trans (commitBaseline_baseline y s),
    run_planOf_params _ s, run_planOf_host _ s⟩

/-! ### A get after a set (R207) -/

/-- `set` and then `get`: the get ends in a bundle with the value `v`, and the construction arguments are as before. -/
def ReadsBack (set get : Instr) (s : State) (v : Byte) : Prop :=
  ∃ t u calls, exec set s = .next t ∧ exec get t = .next u ∧
    u.port = t.port ++ calls ++ [.result (.ok (v.setWidth 16) 0 false)] ∧ bundlesOf calls = [] ∧ u.params = s.params

/-- A get finds the byte that the set left, and shows its decode. -/
theorem readsBack_of_decode {set get : Instr} {s : State} {r : Register} {f : Byte → Nat} {v : Byte}
    (hget : ∀ t, planOf get t = getPlan r f) (hq : quiet 2 ((planOf set s).run s).env = true)
    (decoded : f (((planOf set s).run s).readReg r) = v.toNat) : ReadsBack set get s v := by
  have held := State.settle_settle_reg_of_quiet hq
  obtain ⟨u, hu, hport, -, -, -, hparams, -⟩ := completes_getPlan (hget _) (answersOk_of_quiet hq)
  rw [State.readReg, held, ← State.readReg, decoded, BitVec.ofNat_toNat] at hport
  exact ⟨_, u, _, exec_eq_run set s, hu, hport, rfl, hparams.trans (run_planOf_params set s)⟩

theorem readsBack_field (f : BcdField) {set get : Instr} {s : State} {v : Byte}
    (hset : planOf set s = setFieldPlan f v) (hget : ∀ t, planOf get t = getFieldPlan f) (hq : quiet 5 s.env = true)
    (fits : v.toNat ≤ f.row.encTensMask.toNat * 10 + 9) : ReadsBack set get s v := by
  obtain ⟨⟨c, written⟩, rest⟩ := run_setFieldPlan_of_quiet (n := 2) hq f v
  rw [← hset] at written rest
  exact readsBack_of_decode hget rest (by rw [written, (decodeField_encodeField_eq_iff f _ c).2 fits])

theorem readsBack_day {s : State} {v : Byte} (hq : quiet 3 s.env = true) (fits : v &&& dayMask = v) :
    ReadsBack (.setDay v) .getDay s v := by
  obtain ⟨written, rest⟩ := run_writePlan_of_quiet (n := 2) hq .day (encodeDay v)
  exact readsBack_of_decode (fun _ => rfl) rest ((congrArg decodeDay written).trans (decodeDay_encodeDay fits))

/-! ### The obligations -/

/-- Settles O31: both operations run a read-modify-write by the encode of their row of constants. -/
theorem setSecAndSetHourPreserveControlBits : Obligations.SetSecAndSetHourPreserveControlBits :=
  ⟨fun _ _ _ => ⟨by simp [decode], modifyRule_of_field .sec rfl fun _ => rfl⟩,
    fun _ _ _ => ⟨by simp [decode], modifyRule_of_field .hour rfl fun _ => rfl⟩⟩

/-- Settles O32: each operation runs one write, of the encode of its row of constants or of the day byte. -/
theorem directSetsWriteOneByte : Obligations.DirectSetsWriteOneByte := fun _ _ _ =>
  ⟨⟨by simp [decode], writeRule_of_field .min rfl fun _ => rfl⟩,
    ⟨by simp [decode], writeRule_of_plan fun _ => rfl⟩,
    ⟨by simp [decode], writeRule_of_field .date rfl fun _ => rfl⟩,
    ⟨by simp [decode], writeRule_of_field .mon rfl fun _ => rfl⟩,
    ⟨by simp [decode], writeRule_of_field .yr rfl fun _ => rfl⟩⟩

/-- Settles O33, by whether the tracker finds the century changed. -/
theorem setYearConsultsTheTrackerThenWrites : Obligations.SetYearConsultsTheTrackerThenWrites := by
  intro m s y
  rw [← encodeField_yr_shortYearOf y]
  refine ⟨by simp [decode], fun h => ?_, fun h => ?_⟩
  · have same := (needsOverflowReset_eq_false_iff s y).2 h
    refine ⟨completes_setYear_of_same same, fun fails => ?_⟩
    exact centuryOf_of_same same ▸ aborts_setYear (by rwa [callCount, if_pos h])
  · have change := (needsOverflowReset_eq_true_iff s y).2 h
    refine ⟨completes_setYear_of_change change, abortsUnwritten_setYear_of_change change, fun fails => ?_⟩
    exact aborts_setYear (by rwa [callCount, if_neg h])

/-- Settles O34: the greatest value of each row is the bound of its round trip (`decodeField_encodeField_eq_iff`). -/
theorem setThenGetReturnsTheValue : Obligations.SetThenGetReturnsTheValue := by
  intro s v hq p hp fits
  suffices ReadsBack p.1 p.2.1 s v by
    obtain ⟨t, u, calls, hset, hget, hport, -, -⟩ := this
    exact ⟨t, u, calls, hset, hget, hport⟩
  revert p
  simp only [List.forall_mem_cons, List.not_mem_nil, false_imp_iff, implies_true, and_true]
  exact ⟨readsBack_field .sec rfl (fun _ => rfl) hq, readsBack_field .min rfl (fun _ => rfl) hq,
    readsBack_field .hour rfl (fun _ => rfl) hq,
    fun fits => readsBack_day (quiet_of_le hq (by decide)) (and_dayMask_of_le fits),
    readsBack_field .date rfl (fun _ => rfl) hq, readsBack_field .mon rfl (fun _ => rfl) hq,
    readsBack_field .yr rfl (fun _ => rfl) hq⟩

/-- Settles O49: a code lies in the 3-bit field, so it is read back, and an injective table names its day. -/
theorem setDayThenGetDayNamesTheDay : Obligations.SetDayThenGetDayNamesTheDay := by
  intro s d hw hq
  obtain ⟨t, u, calls, hset, hget, hport, bundles, hparams⟩ := readsBack_day hq (s.params.dayCodes.code_and_mask d)
  refine ⟨t, u, calls, _, hset, hget, hport, bundles, ?_⟩
  rw [State.namedDay, hparams, BitVec.setWidth_setWidth_of_le _ (by decide), BitVec.setWidth_eq]
  exact DayCodes.dayOf_code hw d

end Sys2Proof.Claims
end

section
/-! PROOF. Settles the statements of register access: `RDB` is one read of its register and `WRB` one write of it, and an
address outside the map is answered at once (R220 to R222). -/

namespace Sys2Proof

/-! ### The registers that an address names (R60, R112) -/

theorem AddressMap.ofAddr_addr_isSome (m : AddressMap) (r : Register) : (m.ofAddr (m.addr r)).isSome = true :=
  AddressMap.ofAddr_isSome.2 ⟨r, rfl⟩

theorem AddressMap.ofAddr_isSome_eq_false {m : AddressMap} {a : Byte} (outside : ∀ r, m.addr r ≠ a) :
    (m.ofAddr a).isSome = false := by
  rw [← Bool.not_eq_true, AddressMap.ofAddr_isSome, not_exists]
  exact outside

end Sys2Proof

namespace Sys2Proof.Machine

/-! ### The plans of `RDB` and `WRB` at a register's address (R220, R221) -/

theorem planOf_rdb_addr {s : State} (hm : s.params.addresses.wf) (r : Register) :
    planOf (.rdb (s.params.addresses.addr r)) s = getPlan r BitVec.toNat :=
  planRdb_register (AddressMap.ofAddr_addr hm r)

theorem planOf_wrb_addr {s : State} (hm : s.params.addresses.wf) (r : Register) (v : Byte) :
    planOf (.wrb (s.params.addresses.addr r) v) s = writePlan r v :=
  planWrb_register v (AddressMap.ofAddr_addr hm r)

end Sys2Proof.Machine

namespace Sys2Proof.Claims

open Sys2Proof.Machine

/-! ### A command outside the map (R222) -/

/-- It shows its bundle and does nothing else. -/
theorem exec_not_wf {i : Instr} {s : State} (h : i.wf s.params.addresses = false) :
    exec i s = .next (shows s .illegalCommand) := by
  rw [exec_eq_run, planOf_not_wf h]
  rfl

/-! ### One read and one write of the byte as it stands (R220, R221) -/

/-- `RDB` is a get whose decode is the byte's own number. -/
theorem completes_rdb {s : State} (hm : s.params.addresses.wf) (r : Register) (ok : answersOk 2 s.env = true) :
    let b := s.settle.settle.readReg r
    Completes (.rdb (s.params.addresses.addr r)) s (readCalls s r b) (.ok (b.setWidth 16) 0 false) s.baseline
      s.settle.settle.env s.settle.settle.reg.read := by
  simpa only [BitVec.ofNat_toNat] using completes_getPlan (planOf_rdb_addr hm r) ok

theorem wrbRule (r : Register) (v : Byte) : WrbRule r v := by
  intro s hm
  have plan := planOf_wrb_addr hm r v
  refine ⟨completes_write (congrArg (Plan.run · s) plan), fun fails => ?_⟩
  have transacts : Transacts (planOf (.wrb (s.params.addresses.addr r) v) s) 0 1 := plan ▸ transacts_writePlan r v
  exact transacts.aborts (plan ▸ uncommitted_writePlan r v) fails

/-! ### The obligations -/

/-- Settles O39: at a register's address `RDB` runs one read, whose failure sends no data byte; at any other address it is
not well formed. -/
theorem rdbReturnsTheByte : Obligations.RdbReturnsTheByte := by
  refine ⟨fun m r reserved => ?_, fun r s hm => ⟨completes_rdb hm r, abortsUnwritten_of_read (planOf_rdb_addr hm r)⟩,
    fun a s outside => exec_not_wf (AddressMap.ofAddr_isSome_eq_false outside)⟩
  simp [decode, withRegister_ok _ (AddressMap.ofAddr_addr_isSome m r)]

/-- Settles O40: at a register's address `WRB` runs one write of its byte (`wrbRule`); its word is the one `encode`
spells; at any other address it is not well formed. -/
theorem wrbWritesTheByteAsGiven : Obligations.WrbWritesTheByteAsGiven :=
  ⟨fun m r v => decode_encode (i := .wrb (m.addr r) v) (AddressMap.ofAddr_addr_isSome m r), wrbRule,
    fun _ _ _ outside => exec_not_wf (AddressMap.ofAddr_isSome_eq_false outside)⟩

end Sys2Proof.Claims
end

section
/-! PROOF. Settles the statements of the exceptions: a word that spells no operation ends in `IllegalCommand` (R231), and a
reset placed after a failed call finds the command ended in `TransportError` (R236, R260). -/

namespace Sys2Proof.Machine

theorem answersOk_eq_false_of_le {m n : Nat} {e : List EnvMove} (le : m ≤ n) (fails : answersOk m e = false) :
    answersOk n e = false := by
  induction m generalizing n e with
  | zero => cases fails
  | succ m ih =>
    obtain ⟨n, rfl⟩ := Nat.exists_eq_add_one_of_ne_zero (by omega : n ≠ 0)
    rw [answersOk_succ, Bool.and_eq_false_iff] at fails ⊢
    exact fails.imp_right (ih (Nat.le_of_succ_le_succ le))

/-! ### A transaction that fails before the reset ends the plan as it does undisturbed (R236) -/

theorem Plan.cutShort_read_failed_address (r : Register) (next : Byte → Plan) (inFlight : Bool) {s : State}
    (fails : nextAnswer s.env = false) :
    (Plan.read r next).cutShort 1 inFlight s = resetBlock ((Plan.read r next).run s) := by
  obtain ⟨t, ht, -⟩ := addressPhase_failed (r := r) fails
  rw [Plan.cutShort, Plan.run_read, readThen, memRead, ht]

theorem Plan.cutShort_read_failed (r : Register) (next : Byte → Plan) (calls : Nat) (inFlight : Bool) {s : State}
    (fails : answersOk 2 s.env = false) :
    (Plan.read r next).cutShort (calls + 2) inFlight s = resetBlock ((Plan.read r next).run s) := by
  obtain ⟨t, _, ht, -⟩ := memRead_failed (r := r) fails
  rw [Plan.cutShort, Plan.run_read, readThen, ht]

theorem Plan.cutShort_write_failed (r : Register) (v : Byte) (p : Plan) (calls : Nat) (inFlight : Bool) {s : State}
    (fails : nextAnswer s.env = false) :
    (Plan.write r v p).cutShort (calls + 1) inFlight s = resetBlock ((Plan.write r v p).run s) := by
  obtain ⟨t, ht, -⟩ := memWrite_failed (r := r) (v := v) fails
  rw [Plan.cutShort, Plan.run_write, writeThen, ht]

theorem Plan.cutShort_read_ok (r : Register) (next : Byte → Plan) (calls : Nat) (inFlight : Bool) {s : State}
    (ok : answersOk 2 s.env = true) :
    (Plan.read r next).cutShort (calls + 2) inFlight s =
      (next (s.settle.settle.readReg r)).cutShort calls inFlight (readDone r s) := by
  rw [Plan.cutShort, memRead_ok ok]
  rfl

theorem Plan.cutShort_write_ok (r : Register) (v : Byte) (p : Plan) (calls : Nat) (inFlight : Bool) {s : State}
    (ok : nextAnswer s.env = true) :
    (Plan.write r v p).cutShort (calls + 1) inFlight s = p.cutShort calls inFlight (writeDone r v s) := by
  rw [Plan.cutShort, memWrite_ok ok]

end Sys2Proof.Machine

namespace Sys2Proof.Claims

open Sys2Proof.Machine

/-- A reset that would come after a failed call of a plan finds the plan carried out to its abort. -/
theorem Transacts.cutShort_failed {p : Plan} {reads writes : Nat} (h : Transacts p reads writes) (calls : Nat)
    (inFlight : Bool) (s : State) (fails : answersOk (min calls (2 * reads + writes)) s.env = false) :
    p.cutShort calls inFlight s = resetBlock (p.run s) := by
  induction h generalizing calls s with
  | reply _ | finish _ => simp [answersOk] at fails
  | commit y _ ih => exact ih calls (commitBaseline y s) (by rwa [commitBaseline_env])
  | @read next m n r _ ih =>
    match calls with
    | 0 => simp [answersOk] at fails
    | 1 =>
      rw [show min 1 (2 * (m + 1) + n) = 1 by omega, answersOk, answersOk, Bool.and_true] at fails
      exact Plan.cutShort_read_failed_address r next inFlight fails
    | k + 2 =>
      rw [show min (k + 2) (2 * (m + 1) + n) = min k (2 * m + n) + 2 by omega, answersOk_add_two] at fails
      cases ok : answersOk 2 s.env with
      | false => exact Plan.cutShort_read_failed r next k inFlight ok
      | true =>
        rw [Plan.cutShort_read_ok r next k inFlight ok, Plan.run_read, readThen_ok ok]
        exact ih _ k _ (by simpa [ok] using fails)
  | @write p m n r v _ ih =>
    match calls with
    | 0 => simp [answersOk] at fails
    | k + 1 =>
      rw [← Nat.add_assoc, Nat.add_min_add_right, answersOk_succ] at fails
      cases ok : nextAnswer s.env with
      | false => exact Plan.cutShort_write_failed r v p k inFlight ok
      | true =>
        rw [Plan.cutShort_write_ok r v p k inFlight ok, Plan.run_write, writeThen_ok ok]
        exact ih k _ (by simpa [ok] using fails)

/-! ### The obligations -/

/-- Settles O6: the equation of a step for a word the decoder rejects. -/
theorem illegalWordChangesNothing : Obligations.IllegalWordChangesNothing :=
  fun _ _ _ _ => step_command_error

/-- Settles O51: the plan of the command, cut short after the failure, is the plan carried out and then the reset
(`Transacts.cutShort_failed`), and carried out it ends in `TransportError` (`Transacts.run_failed`). -/
theorem resetAfterAFailedCallFindsTheBlockIdle : Obligations.ResetAfterAFailedCallFindsTheBlockIdle := by
  intro s w k inFlight rest i hm hd s0 fails
  have params : s0.params = s.params := s.ticks_params
  obtain ⟨wf, -⟩ := decodedInstructionReencodesLessReservedBits _ _ _ hd
  have transacts : Transacts (planOf i s0) _ _ := transacts_planOf (params ▸ wf)
  rw [callCount_eq] at fails
  obtain ⟨calls, hport, -⟩ := transacts.run_failed s0 (answersOk_eq_false_of_le (Nat.min_le_right ..) fails)
  refine ⟨_, exec_eq_run i s0, by rw [hport, List.getLast?_concat], ?_⟩
  rw [step_cutShort_ok hm hd, cutCommand, transacts.cutShort_failed k inFlight s0 fails, ← params,
    ← run_planOf_params i s0]
  rfl

end Sys2Proof.Claims
end

section
/-! PROOF. Settles the statements of a reset of the idle block (R260, R261, R272), of a reset inside `SET.YEAR` (R208, R262),
and of a `SET.YEAR` that is issued again after a failure (R277). -/

namespace Sys2Proof.Machine

/-! ### Ticks beside the host's list and the answers (R50) -/

theorem applyTick_setHost (k : Tick) (s : State) (h : List HostMove) :
    applyTick k (s.setHost h) = (applyTick k s).setHost h := by
  have hs : (s.setHost h).runState = s.runState := rfl
  rcases s.runState_eq with r | r
  · rw [applyTick_halted k r, applyTick_halted k (hs.trans r)]
  · rw [applyTick_running k r, applyTick_running k (hs.trans r)]
    rfl

theorem runTicks_setHost (e : List EnvMove) (s : State) (h : List HostMove) :
    runTicks e (s.setHost h) = (runTicks e s).setHost h := by
  induction e generalizing s with
  | nil => rfl
  | cons m e ih =>
    cases m with
    | tick k => rw [runTicks, runTicks, applyTick_setHost, ih]
    | answer ok => rfl

@[simp] theorem State.setHost_settle (s : State) (h : List HostMove) : (s.setHost h).settle = s.settle.setHost h :=
  congrArg (State.setEnv · (afterAnswer s.env)) (runTicks_setHost s.env s h)

theorem answersOk_runTicks (n : Nat) (e : List EnvMove) (s : State) :
    answersOk n (runTicks e s).env = answersOk n e := by
  cases n with
  | zero => rfl
  | succ n =>
    induction e generalizing s with
    | nil => rfl
    | cons m e ih =>
      cases m with
      | tick k => exact ih (applyTick k s)
      | answer ok => rfl

theorem State.ticks_of_quiet {n : Nat} {s : State} (h : quiet (n + 1) s.env = true) : s.ticks = s := by
  unfold State.ticks
  cases he : s.env with
  | nil => exact congrArg s.setEnv he.symm
  | cons m e =>
    cases m with
    | tick k => rw [he] at h; cases h
    | answer ok => exact congrArg s.setEnv he.symm

/-! ### `SET.YEAR` into another century, reset after its write of CentHours (R208, R262) -/

theorem cutShort_planSetYear_of_change {s : State} {y : Year} (change : needsOverflowReset s y = true)
    (ok : answersOk 3 s.env = true) : (planSetYear y s).cutShort 3 false s = abandon (centCleared y s) := by
  obtain ⟨read, written⟩ : answersOk 2 s.env = true ∧ nextAnswer (afterAnswer (afterAnswer s.env)) = true := by
    simpa [answersOk, and_assoc] using ok
  rw [planSetYear, Plan.cutShort, commitBaseline_of_change change, if_pos change, modifyPlan,
    Plan.cutShort_read_ok _ _ _ _ (by exact read), Plan.cutShort_write_ok _ _ _ _ _ (by exact written), Plan.cutShort]
  simp [centCleared]

end Sys2Proof.Machine

namespace Sys2Proof.Claims

open Sys2Proof.Machine

/-- Settles O7: the equation of a step for a reset. -/
theorem resetWritesOnlyBaseline : Obligations.ResetWritesOnlyBaseline := by
  intro s rest hm
  rw [step_reset hm, resetBlock, State.setHost_params, State.ticks_params]
  rfl

/-- Settles O37: the failed command has adopted the century (`aborts_setYear`), so the tracker finds it unchanged when the
command is issued again (`completes_setYear_of_same`). -/
theorem retriedSetYearSkipsTheOverflowClear : Obligations.RetriedSetYearSkipsTheOverflowClear := by
  intro s y change fails
  obtain ⟨t, calls, ht, hport, -, hbase, -⟩ := aborts_setYear (s := s) (y := y) (by rwa [callCount, if_neg change])
  refine ⟨t, ht, by rw [hport, List.getLast?_concat], fun ok => ?_⟩
  have same : needsOverflowReset t y = false := by rw [needsOverflowReset_eq_false_iff, hbase, centuryOf_toNat]
  obtain ⟨u, hu, huport, -, hreg, -⟩ := completes_setYear_of_same same ok
  refine ⟨u, hu, ?_, (hreg _).trans (if_neg (by decide))⟩
  rw [huport, hbase, encodeField_yr_shortYearOf]
  rfl

/-- `GET.YEAR` when the environment does nothing more: both reads find what stands in `REG`. -/
theorem exec_getYear_of_still {s : State} (still : s.env = []) :
    ∃ u calls, exec .getYear s = .next u ∧ u.port = s.port ++ calls ++ [.result (.ok (BitVec.ofNat 16 (s.baseline.toNat +
      (if centBit (s.readReg .centHours) then 100 else 0) + digits 0xF0 (s.readReg .year))) 0 false)] := by
  obtain ⟨u, hu, hport, -⟩ := completes_getYear (s := s) (by rw [still]; rfl)
  simp only [State.settle_nil still, fullYearOf, decodeField_eq_digits] at hport
  exact ⟨u, _, hu, hport⟩

/-- Settles O38: the reset leaves `BASELINE_RESET` and the registers as they are, and `GET.YEAR` counts from these. -/
theorem resetForgetsTheCentury : Obligations.ResetForgetsTheCentury := by
  intro s rest hm still
  have reset := step_reset hm
  rw [State.ticks_nil still] at reset
  have get := step_command_ok (s := resetBlock (s.setHost (.command 0x370000 :: rest))) (i := .getYear) rfl rfl
  rw [State.ticks_nil (by exact still)] at get
  obtain ⟨u, calls, hu, hport⟩ := exec_getYear_of_still (s := (s.setHost rest).setBaseline s.params.baselineReset) still
  exact ⟨_, u, calls, reset, get.trans hu, hport⟩

/-- Settles O53: after three answered calls CentHours has been written and Year has not
(`cutShort_planSetYear_of_change`). -/
theorem resetInsideSetYearKeepsItsOverflowClear : Obligations.ResetInsideSetYearKeepsItsOverflowClear := by
  intro s y rest hm other ok u cleared
  have change : needsOverflowReset (s.ticks.setHost rest) y = true := by
    rw [needsOverflowReset_eq_true_iff, State.setHost_baseline, State.ticks_baseline]
    exact other
  have answered : answersOk 3 (s.ticks.setHost rest).env = true := (answersOk_runTicks 3 s.env s).trans ok
  have spelled : decode s.params.addresses (wordYear 0x47 y) = .ok (.setYear y) := by simp [decode]
  have cut : cutCommand (.setYear y) 3 false _ = _ := cutShort_planSetYear_of_change change answered
  refine ⟨_, (step_cutShort_ok hm spelled).trans (congrArg _ cut), ?_, ?_, rfl, ?_, fun a => ?_⟩
  · simp [centCleared, readCalls, writeCall, u, cleared, clearBit7]
  · simp [centCleared]
  · simp [centCleared]
  · simp [centCleared, readDone_settle, Memory.read_write, withReg, u, cleared, clearBit7]

end Sys2Proof.Claims
end

section
/-! PROOF. Settles the statements of a reset at any moment of a command (R262): what the port shows of it, and the
transactions that stand. Both speak of the calls the command makes undisturbed, which `Plan.calls` lists. -/

namespace Sys2Proof.Machine

open Sys2Proof.Claims

/-! ### The calls of a plan -/

/-- The transport calls a plan makes, each with its answer, up to the end or the first call that fails (R71 to R73, R236). -/
def Plan.calls : Plan → State → List PortEvent
  | .reply _, _ => []
  | .finish _, _ => []
  | .commit y p, s => p.calls (commitBaseline y s)
  | .read r next, s =>
    .write s.params.deviceAddr [s.params.addresses.addr r] true (nextAnswer s.env) ::
      if nextAnswer s.env then
        if nextAnswer (afterAnswer s.env) then
          .read s.params.deviceAddr (some (s.settle.settle.readReg r)) ::
            (next (s.settle.settle.readReg r)).calls (readDone r s)
        else [.read s.params.deviceAddr none]
      else []
  | .write r v p, s =>
    .write s.params.deviceAddr [s.params.addresses.addr r, v] false (nextAnswer s.env) ::
      if nextAnswer s.env then p.calls (writeDone r v s) else []

@[simp] theorem Plan.calls_reply (b : Bundle) (s : State) : (Plan.reply b).calls s = [] := rfl
@[simp] theorem Plan.calls_finish (b : Bundle) (s : State) : (Plan.finish b).calls s = [] := rfl
@[simp] theorem Plan.calls_commit (y : Year) (p : Plan) (s : State) :
    (Plan.commit y p).calls s = p.calls (commitBaseline y s) := rfl

theorem Plan.calls_read_ok (r : Register) (next : Byte → Plan) {s : State} (ok : answersOk 2 s.env = true) :
    (Plan.read r next).calls s =
      readCalls s r (s.settle.settle.readReg r) ++ (next (s.settle.settle.readReg r)).calls (readDone r s) := by
  obtain ⟨address, data⟩ : nextAnswer s.env = true ∧ nextAnswer (afterAnswer s.env) = true := by
    simpa [answersOk] using ok
  simp [Plan.calls, address, data, readCalls]

theorem Plan.calls_write_ok (r : Register) (v : Byte) (p : Plan) {s : State} (ok : nextAnswer s.env = true) :
    (Plan.write r v p).calls s = writeCall s r v ++ p.calls (writeDone r v s) := by
  simp [Plan.calls, ok, writeCall]

theorem Plan.calls_read_address (r : Register) (next : Byte → Plan) {s : State} (address : nextAnswer s.env = true) :
    ∃ reply rest, (Plan.read r next).calls s = .write s.params.deviceAddr [s.params.addresses.addr r] true true ::
      .read s.params.deviceAddr reply :: rest := by
  rw [Plan.calls, if_pos address, address]
  split <;> exact ⟨_, _, rfl⟩

/-- A `MemRead` that fails in its data phase (R72). -/
theorem memRead_failed_data {r : Register} {s : State} (address : nextAnswer s.env = true)
    (data : nextAnswer (afterAnswer s.env) = false) :
    ∃ t, memRead r s = .failed t ∧ FailedFrom s
      [.write s.params.deviceAddr [s.params.addresses.addr r] true true, .read s.params.deviceAddr none] t := by
  simp only [memRead, addressPhase_ok address, dataPhase, addressDone_env, data, addressDone_settle]
  refine ⟨_, rfl, failedFrom_unknown ⟨?_, ?_, ?_, ?_, fun w => State.settle_wf (State.settle_wf w)⟩⟩ <;> simp

/-- Carried out, a plan shows its calls and then one bundle. -/
theorem Plan.run_port (p : Plan) (s : State) : ∃ b, (p.run s).port = s.port ++ p.calls s ++ [.result b] := by
  induction p generalizing s with
  | reply b | finish b => exact ⟨b, by simp [deliver]⟩
  | commit y p ih => simpa using ih (commitBaseline y s)
  | read r next ih =>
    cases address : nextAnswer s.env with
    | false =>
      obtain ⟨t, ht, hfrom⟩ := addressPhase_failed (r := r) address
      exact ⟨.transportError, by simp [Plan.calls, address, readThen, memRead, ht, abort, hfrom.port]⟩
    | true =>
      cases data : nextAnswer (afterAnswer s.env) with
      | false =>
        obtain ⟨t, ht, hfrom⟩ := memRead_failed_data (r := r) address data
        exact ⟨.transportError, by simp [Plan.calls, address, data, readThen, ht, abort, hfrom.port]⟩
      | true =>
        have ok : answersOk 2 s.env = true := by simp [answersOk, address, data]
        simpa [Plan.calls, address, data, readThen_ok ok] using ih (s.settle.settle.readReg r) (readDone r s)
  | write r v p ih =>
    cases ok : nextAnswer s.env with
    | false =>
      obtain ⟨t, ht, hfrom⟩ := memWrite_failed (r := r) (v := v) ok
      exact ⟨.transportError, by simp [Plan.calls, ok, writeThen, ht, abort, hfrom.port]⟩
    | true => simpa [Plan.calls, ok, writeThen_ok ok] using ih (writeDone r v s)

theorem Plan.bundlesOf_calls (p : Plan) (s : State) : bundlesOf (p.calls s) = [] := by
  induction p generalizing s with
  | reply _ | finish _ => rfl
  | commit y p ih => exact ih _
  | read r next ih =>
    rw [Plan.calls, bundlesOf]
    split
    · split
      · exact ih _ _
      · rfl
    · rfl
  | write r v p ih =>
    rw [Plan.calls, bundlesOf]
    split
    · exact ih _
    · rfl

/-! ### What a reset leaves of a transaction in flight (U7) -/

/-- A reset between the two phases of a `MemRead`. -/
theorem Plan.cutShort_read_address (r : Register) (next : Byte → Plan) (inFlight : Bool) {s : State}
    (address : nextAnswer s.env = true) :
    (Plan.read r next).cutShort 1 inFlight s = abandon (cutOff r
      (if inFlight then (addressDone r s).ticks.emit (.cutRead s.params.deviceAddr) else addressDone r s)) := by
  rw [Plan.cutShort, addressPhase_ok address]

/-- A reset leaves every register but that of the transaction it cuts off. -/
theorem abandon_cutOff_readReg_other (s : State) {r q : Register} (h : q ≠ r) :
    (abandon (cutOff r s)).readReg q = s.readReg q :=
  cutOff_readReg_other s h

/-- As it does when the call it cuts off has been made and the peripheral took no step before it. -/
theorem abandon_cutOff_emit_readReg_other {n : Nat} {s : State} (hq : quiet (n + 1) s.env = true) (e : PortEvent)
    {r q : Register} (h : q ≠ r) : (abandon (cutOff r (s.ticks.emit e))).readReg q = s.readReg q := by
  rw [abandon_cutOff_readReg_other _ h, State.emit_readReg, State.ticks_of_quiet hq]

/-! ### The transactions that stand (R262, R73) -/

/-- A transaction in flight is in flight whatever was completed before it. -/
theorem inTransaction_append {s t : State} (hp : t.params = s.params) {q : Register} {calls : List PortEvent} {k : Nat}
    {inFlight : Bool} (before : List PortEvent) (h : inTransaction t q calls k inFlight) :
    inTransaction s q (before ++ calls) (before.length + k) inFlight := by
  rw [inTransaction, hp] at h
  refine h.imp (fun ⟨device, ok, last⟩ => ⟨device, ok, ?_⟩) (fun ⟨made, device, bytes, holdBus, ok, next⟩ =>
    ⟨made, device, bytes, holdBus, ok, ?_⟩)
  · rw [List.take_length_add_append, List.getLast?_append, last, Option.some_or]
  · rw [List.getElem?_append_right (Nat.le_add_right ..), Nat.add_sub_cancel_left, next]

theorem lastWritten_append {s t : State} (hp : t.params = s.params) {q : Register} {before : List PortEvent}
    (held : t.readReg q = lastWritten s q before) (calls : List PortEvent) :
    lastWritten s q (before ++ calls) = lastWritten t q calls := by
  rw [lastWritten, List.foldl_append, ← lastWritten, ← held, lastWritten, hp]

theorem lastWritten_readCalls (s : State) (q r : Register) (v : Byte) :
    lastWritten s q (readCalls s r v) = s.readReg q := rfl

theorem lastWritten_writeCall {s : State} (hm : s.params.addresses.wf) (q r : Register) (v : Byte) :
    lastWritten s q (writeCall s r v) = if q = r then v else s.readReg q := by
  have same : s.params.addresses.addr r = s.params.addresses.addr q ↔ q = r :=
    ⟨fun e => (AddressMap.addr_injective hm e).symm, fun e => e ▸ rfl⟩
  simp [lastWritten, writeCall, same]

/-- Cut short with no step of the peripheral and no failure, a plan leaves in a register that no transaction is in flight on
what its answered writes put there. -/
theorem Plan.cutShort_readReg (p : Plan) {k : Nat} {inFlight : Bool} {s : State} (hm : s.params.addresses.wf)
    (hq : quiet (k + 1) s.env = true) {q : Register} (free : ¬ inTransaction s q (p.calls s) k inFlight) :
    (p.cutShort k inFlight s).readReg q = lastWritten s q ((p.calls s).take k) := by
  induction p generalizing k s with
  | reply _ | finish _ => simp [Plan.cutShort, lastWritten, State.readReg]
  | commit y p ih =>
    have cut := ih (s := commitBaseline y s) (by simpa using hm) (by simpa using hq) (k := k)
    simp only [inTransaction, lastWritten, commitBaseline_params, commitBaseline_readReg] at cut
    exact cut free
  | read r next ih =>
    match k, inFlight with
    | 0, false => rfl
    | 0, true =>
      have other : q ≠ r := by rintro rfl; exact free (.inr ⟨rfl, _, _, _, _, rfl⟩)
      exact abandon_cutOff_emit_readReg_other hq _ other
    | 1, inFlight =>
      obtain ⟨address, still⟩ := quiet_succ hq
      obtain ⟨reply, rest, hcalls⟩ := Plan.calls_read_address r next address
      rw [hcalls] at free ⊢
      have other : q ≠ r := by rintro rfl; exact free (.inl ⟨_, _, rfl⟩)
      have held : (addressDone r s).readReg q = s.readReg q := congrArg (Memory.read · q.key) (State.settle_reg_of_quiet hq)
      rw [Plan.cutShort_read_address r next inFlight address]
      cases inFlight with
      | false => exact (abandon_cutOff_readReg_other _ other).trans held
      | true => exact (abandon_cutOff_emit_readReg_other (s := addressDone r s) still _ other).trans held
    | k + 2, inFlight =>
      obtain ⟨-, hreg, rest⟩ := run_read_of_quiet (n := k + 1) hq r next
      have ok : answersOk 2 s.env = true := answersOk_of_quiet (quiet_of_le hq (by omega))
      have held : (readDone r s).readReg q = s.readReg q := congrArg (Memory.read · q.key) hreg
      have params := readDone_params r s
      rw [Plan.calls_read_ok r next ok, Nat.add_comm k 2] at free ⊢
      rw [Nat.add_comm 2 k, Plan.cutShort_read_ok r next k inFlight ok,
        ih _ (params ▸ hm) rest fun h => free (inTransaction_append params (readCalls s r _) h)]
      exact (lastWritten_append params (held.trans (lastWritten_readCalls s q r _).symm) _).symm
  | write r v p ih =>
    match k, inFlight with
    | 0, false => rfl
    | 0, true =>
      have other : q ≠ r := by rintro rfl; exact free (.inr ⟨rfl, _, _, _, _, rfl⟩)
      exact abandon_cutOff_emit_readReg_other hq _ other
    | k + 1, inFlight =>
      obtain ⟨-, hreg, rest⟩ := run_write_of_quiet (n := k + 1) hq r v p
      have ok : nextAnswer s.env = true := (quiet_succ hq).1
      have params := writeDone_params r v s
      have held : (writeDone r v s).readReg q = lastWritten s q (writeCall s r v) := by
        rw [lastWritten_writeCall hm, State.readReg, hreg]
        exact State.readReg_writeReg s r q v
      rw [Plan.calls_write_ok r v p ok, Nat.add_comm k 1] at free ⊢
      rw [Nat.add_comm 1 k, Plan.cutShort_write_ok r v p k inFlight ok,
        ih (params ▸ hm) rest fun h => free (inTransaction_append params (writeCall s r v) h)]
      exact (lastWritten_append params held _).symm

end Sys2Proof.Machine

namespace Sys2Proof.Claims

open Sys2Proof.Machine

/-! ### What the port shows (R262) -/

/-- What is left of a command's calls by a reset that comes when `k` of them have been answered. -/
def callsAtReset (calls : List PortEvent) (k : Nat) (inFlight : Bool) : List PortEvent :=
  calls.take k ++ if inFlight then ((calls.drop k).take 1).map withoutAnswer else []

@[simp] theorem callsAtReset_nil (k : Nat) (inFlight : Bool) : callsAtReset [] k inFlight = [] := by
  simp [callsAtReset]

@[simp] theorem callsAtReset_zero (e : PortEvent) (calls : List PortEvent) (inFlight : Bool) :
    callsAtReset (e :: calls) 0 inFlight = if inFlight then [withoutAnswer e] else [] := rfl

@[simp] theorem callsAtReset_succ (e : PortEvent) (calls : List PortEvent) (k : Nat) (inFlight : Bool) :
    callsAtReset (e :: calls) (k + 1) inFlight = e :: callsAtReset calls k inFlight := rfl

/-- A plan cut short before a failure shows its calls as the reset leaves them, and nothing after them. -/
theorem Transacts.cutShort_port {p : Plan} {reads writes : Nat} (h : Transacts p reads writes) (k : Nat)
    (inFlight : Bool) (s : State) (ok : answersOk (min k (2 * reads + writes)) s.env = true) :
    (p.cutShort k inFlight s).port = s.port ++ callsAtReset (p.calls s) k inFlight := by
  induction h generalizing k s with
  | reply _ | finish _ => simp [Plan.cutShort]
  | commit y _ ih => simpa [Plan.cutShort] using ih k (commitBaseline y s) (by simpa using ok)
  | @read next m n r _ ih =>
    match k with
    | 0 => cases inFlight <;> simp [Plan.cutShort, Plan.calls, withoutAnswer]
    | 1 =>
      have address : nextAnswer s.env = true := by
        simpa [show min 1 (2 * (m + 1) + n) = 1 by omega, answersOk] using ok
      obtain ⟨reply, rest, hcalls⟩ := Plan.calls_read_address r next address
      rw [Plan.cutShort_read_address r next inFlight address, hcalls]
      cases inFlight <;> simp [withoutAnswer]
    | k + 2 =>
      rw [show min (k + 2) (2 * (m + 1) + n) = min k (2 * m + n) + 2 by omega, answersOk_add_two, Bool.and_eq_true] at ok
      obtain ⟨read, rest⟩ := ok
      rw [Plan.cutShort_read_ok r next k inFlight read, ih _ k _ (by exact rest), Plan.calls_read_ok r next read,
        readDone_port, List.append_assoc]
      rfl
  | @write p m n r v _ ih =>
    match k with
    | 0 => cases inFlight <;> simp [Plan.cutShort, Plan.calls, withoutAnswer]
    | k + 1 =>
      rw [← Nat.add_assoc, Nat.add_min_add_right, answersOk_succ, Bool.and_eq_true] at ok
      obtain ⟨written, rest⟩ := ok
      rw [Plan.cutShort_write_ok r v p k inFlight written, ih k _ (by exact rest), Plan.calls_write_ok r v p written,
        writeDone_port, List.append_assoc]
      rfl

/-! ### The obligations -/

/-- Settles O50: the plan carried out shows its calls (`Plan.run_port`), and cut short it shows those that the reset leaves
(`Transacts.cutShort_port`). -/
theorem resetDuringACommandAbandonsIt : Obligations.ResetDuringACommandAbandonsIt := by
  intro s w k inFlight rest i hm hd s0
  have params : s0.params = s.params := s.ticks_params
  have port : s0.port = s.port := s.ticks_port
  obtain ⟨wf, -⟩ := decodedInstructionReencodesLessReservedBits _ _ _ hd
  obtain ⟨b, hrun⟩ := (planOf i s0).run_port s0
  have cut := cutCommand_resetFrom i k inFlight s0
  refine ⟨_, _, (planOf i s0).calls s0, b, step_cutShort_ok hm hd, exec_eq_run i s0, port ▸ hrun,
    Plan.bundlesOf_calls _ s0, by rw [cut.baseline, params], cut.params.trans params, cut.host, fun ok => ?_⟩
  rw [callCount_eq] at ok
  rw [cutCommand, (transacts_planOf (params ▸ wf)).cutShort_port k inFlight s0 ok, port, callsAtReset, List.append_assoc]

/-- Settles O52: the registers of a plan cut short, read against its calls (`Plan.cutShort_readReg`). -/
theorem completedTransactionsStandAfterAReset : Obligations.CompletedTransactionsStandAfterAReset := by
  intro s w k inFlight rest i hm hd distinct hq
  have cut := step_cutShort_ok hm hd
  rw [State.ticks_of_quiet hq] at cut
  let p := planOf i (s.setHost rest)
  obtain ⟨b, hrun⟩ := p.run_port (s.setHost rest)
  exact ⟨_, _, p.calls (s.setHost rest), b, cut, exec_eq_run i _, hrun, p.bundlesOf_calls _,
    fun q free => p.cutShort_readReg (s := s.setHost rest) distinct hq free⟩

end Sys2Proof.Claims
end
